-- ==== Sys2Proof/Word.lean ====
section
/-! DEFINITION. The widths of the block's values (00_scope.md R14: every value is an unsigned integer of stated width). -/

namespace Sys2Proof

/-- One byte: a channel value, a byte of `TXBUF`, a response code (R25, R27, R80). -/
abbrev Byte := BitVec 8

/-- A command word, or the `data` of a response (R70, R80). -/
abbrev Word := BitVec 64

/-- The `IDX` operand (R74). -/
abbrev Index := BitVec 24

/-- A colour in the LED-entry layout `R:G:B:W` (R25, R73). -/
abbrev Color := BitVec 32

/-- A delay in microseconds (R76, R31). -/
abbrev Micros := BitVec 32

end Sys2Proof
end

