-- ==== Sys2Proof/Syntax.lean ====
section
/-! DEFINITION. The commands (30_encoding.md R77), what a word that is no command is (R79), and the assembler's terms
(R83, R84). -/

namespace Sys2Proof

/-- The six commands, one constructor per row of `opcode_table.json` (R77). The widths of the operand types are those of the
fields of R71, so every term is well-formed and has exactly one word (R82). -/
inductive Instr where
  /-- ENCODE `V` (R104). -/
  | encode (v : Byte)
  /-- SET_LED `IDX`, `COL` (R151). -/
  | setLed (idx : Index) (col : Color)
  /-- FILL `COL` (R155). -/
  | fill (col : Color)
  /-- BUILD (R117). -/
  | build
  /-- UPDATE `DLY` (R125). -/
  | update (dly : Micros)
  /-- CLOSE (R140). -/
  | close
deriving DecidableEq, Repr

/-- Why a word is `Illegal` (R79). The block does not tell the two apart (R168). -/
inductive Illegal where
  /-- The `OP` value is reserved (R77). -/
  | reservedOp
  /-- A field that R72 marks `0` has a non-zero bit. -/
  | nonZeroField
deriving DecidableEq, Repr

/-- One line of the assembler: a command of R83 or a pseudo-command of R84, its operands as the numbers the programmer wrote. -/
inductive Asm where
  | encode (v : Nat)
  | setLed (i r g b w : Nat)
  | fill (r g b w : Nat)
  | build
  | update (d : Nat)
  | close
  /-- Pseudo-command `CLEAR`. -/
  | clear
  /-- Pseudo-command `SET_LED i, r, g, b`. -/
  | setLedRgb (i r g b : Nat)
  /-- Pseudo-command `FILL r, g, b`. -/
  | fillRgb (r g b : Nat)
  /-- Pseudo-command `UPDATE` without an operand. -/
  | updateNow
deriving DecidableEq, Repr

end Sys2Proof
end

