-- ==== Sys2Proof/WellFormed.lean ====
section
/-! DEFINITION. The assembler's operand checks (30_encoding.md R83: "An operand outside its field's width … is an assembly
error"). A term of `Instr` needs no check: the types of its operands have the widths of their fields (R71). -/

namespace Sys2Proof

/-- A channel or an ENCODE value is at most 255 (R83). -/
def channelFits (c : Nat) : Bool := decide (c < 2 ^ 8)

/-- An LED index is below `2^24` (R83). -/
def indexFits (i : Nat) : Bool := decide (i < 2 ^ 24)

/-- A delay is below `2^32` (R83). -/
def delayFits (d : Nat) : Bool := decide (d < 2 ^ 32)

/-- Every operand of the line fits its field (R83). -/
def Asm.wellFormed : Asm → Bool
  | .encode v => channelFits v
  | .setLed i r g b w => indexFits i && channelFits r && channelFits g && channelFits b && channelFits w
  | .fill r g b w => channelFits r && channelFits g && channelFits b && channelFits w
  | .build => true
  | .update d => delayFits d
  | .close => true
  | .clear => true
  | .setLedRgb i r g b => indexFits i && channelFits r && channelFits g && channelFits b
  | .fillRgb r g b => channelFits r && channelFits g && channelFits b
  | .updateNow => true

/-- Every term of `Instr` is well-formed: there is a command word for each (R71, R82). -/
def Instr.wellFormed : Instr → Bool
  | .encode _ => true
  | .setLed _ _ => true
  | .fill _ => true
  | .build => true
  | .update _ => true
  | .close => true

end Sys2Proof
end

