-- ==== Sys2Proof/Decode.lean ====
section
/-! DEFINITION. The command word: its fields (30_encoding.md R71), the decoder (R78), the encoder written from the same table,
the rows of `opcode_table.json`, and the assembler of R83 and R84. -/

namespace Sys2Proof

/-! ## Fields of a word (R71) -/

/-- `OP = w[63:56]`. -/
def opField (w : Word) : Byte := w.extractLsb' 56 8

/-- `IDX = w[55:32]`. -/
def idxField (w : Word) : Index := w.extractLsb' 32 24

/-- `COL = DLY = w[31:0]`. -/
def colField (w : Word) : Color := w.extractLsb' 0 32

/-- `w[31:8]`, which ENCODE marks `0` (R72). -/
def midField (w : Word) : BitVec 24 := w.extractLsb' 8 24

/-- `V = w[7:0]` (R75). -/
def valField (w : Word) : Byte := w.extractLsb' 0 8

/-! ## Decoder -/

/-- `i` if the fields that must be zero are zero, else `Illegal` (R72, R79). -/
def requireZero (zero : Bool) (i : Instr) : Except Illegal Instr :=
  if zero then .ok i else .error .nonZeroField

/-- The decoder of R78: every word is exactly one of the six commands or `Illegal`. -/
def decode (w : Word) : Except Illegal Instr :=
  if opField w = 0x01#8 then
    requireZero (decide (idxField w = 0#24) && decide (midField w = 0#24)) (.encode (valField w))
  else if opField w = 0x02#8 then .ok (.setLed (idxField w) (colField w))
  else if opField w = 0x03#8 then requireZero (decide (idxField w = 0#24)) (.fill (colField w))
  else if opField w = 0x04#8 then
    requireZero (decide (idxField w = 0#24) && decide (colField w = 0#32)) .build
  else if opField w = 0x05#8 then requireZero (decide (idxField w = 0#24)) (.update (colField w))
  else if opField w = 0x06#8 then
    requireZero (decide (idxField w = 0#24) && decide (colField w = 0#32)) .close
  else .error .reservedOp

/-! ## Encoder -/

/-- A `CMD64` word from its three fields (R71). -/
def cmd64 (op : Byte) (idx : Index) (col : Color) : Word := (op ++ idx ++ col : BitVec (8 + 24 + 32))

/-- The word of a command (R72, R77). -/
def encode : Instr → Word
  | .encode v => cmd64 0x01#8 0#24 (0#24 ++ v : BitVec (24 + 8))
  | .setLed idx col => cmd64 0x02#8 idx col
  | .fill col => cmd64 0x03#8 0#24 col
  | .build => cmd64 0x04#8 0#24 0#32
  | .update dly => cmd64 0x05#8 0#24 dly
  | .close => cmd64 0x06#8 0#24 0#32

/-! ## The opcode table -/

/-- A row of `opcode_table.json`. -/
structure Row where
  mnemonic : String
  matchBits : Word
  mask     : Word
deriving DecidableEq, Repr

/-- The rows, in the table's order. -/
def opcodeTable : List Row :=
  [ { mnemonic := "ENCODE",  matchBits := 0x0100000000000000#64, mask := 0xFFFFFFFFFFFFFF00#64 },
    { mnemonic := "SET_LED", matchBits := 0x0200000000000000#64, mask := 0xFF00000000000000#64 },
    { mnemonic := "FILL",    matchBits := 0x0300000000000000#64, mask := 0xFFFFFFFF00000000#64 },
    { mnemonic := "BUILD",   matchBits := 0x0400000000000000#64, mask := 0xFFFFFFFFFFFFFFFF#64 },
    { mnemonic := "UPDATE",  matchBits := 0x0500000000000000#64, mask := 0xFFFFFFFF00000000#64 },
    { mnemonic := "CLOSE",   matchBits := 0x0600000000000000#64, mask := 0xFFFFFFFFFFFFFFFF#64 } ]

/-- The word lies in the row. -/
def Row.holds (r : Row) (w : Word) : Bool := decide (w &&& r.mask = r.matchBits)

/-- The row's name of a command. -/
def Instr.mnemonic : Instr → String
  | .encode _ => "ENCODE"
  | .setLed _ _ => "SET_LED"
  | .fill _ => "FILL"
  | .build => "BUILD"
  | .update _ => "UPDATE"
  | .close => "CLOSE"

/-! ## The table's words (the host's numbering: one word of 64 bits, so bit 0 of the table is bit 0 of the word) -/

/-- The command word whose low `nbits` bits are those of `w` and whose other bits are zero. -/
def tableWord (nbits w : Nat) : Word := (BitVec.ofNat nbits w).setWidth 64

/-- What the decoder reads from a word of the opcode table; none where it is `Illegal`, or longer than a command (R82). -/
def decodeTableWord (nbits w : Nat) : Option Instr :=
  if nbits ≤ 64 then (decode (tableWord nbits w)).toOption else none

/-! ## The assembler -/

/-- The colour word of four channels, `COL = r:g:b:w` (R83). -/
def colorOf (r g b w : Nat) : Color :=
  (BitVec.ofNat 8 r ++ BitVec.ofNat 8 g ++ BitVec.ofNat 8 b ++ BitVec.ofNat 8 w : BitVec (8 + 8 + 8 + 8))

/-- The command of a line, its pseudo-commands expanded (R84). Meant for a line whose operands fit. -/
def Asm.expand : Asm → Instr
  | .encode v => .encode (BitVec.ofNat 8 v)
  | .setLed i r g b w => .setLed (BitVec.ofNat 24 i) (colorOf r g b w)
  | .fill r g b w => .fill (colorOf r g b w)
  | .build => .build
  | .update d => .update (BitVec.ofNat 32 d)
  | .close => .close
  | .clear => .fill (colorOf 0 0 0 0)
  | .setLedRgb i r g b => .setLed (BitVec.ofNat 24 i) (colorOf r g b 0)
  | .fillRgb r g b => .fill (colorOf r g b 0)
  | .updateNow => .update 0#32

/-- The word of a line; none where an operand does not fit its field: "no word is produced" (R83). -/
def assemble (a : Asm) : Option Word := if a.wellFormed then some (encode a.expand) else none

/-- The value of a digit; none for any other character. -/
def digitValue (c : Char) : Option Nat :=
  let n := c.toNat
  if 48 ≤ n ∧ n ≤ 57 then some (n - 48)
  else if 65 ≤ n ∧ n ≤ 70 then some (n - 55)
  else if 97 ≤ n ∧ n ≤ 102 then some (n - 87)
  else none

/-- The digits of a numeral in a base, after `acc`. -/
def readDigits (base : Nat) : List Char → Nat → Option Nat
  | [], acc => some acc
  | c :: cs, acc =>
    match digitValue c with
    | some d => if d < base then readDigits base cs (acc * base + d) else none
    | none => none

/-- A number, "decimal or `0x`-prefixed hexadecimal" (R83). -/
def readNumber : List Char → Option Nat
  | [] => none
  | '0' :: 'x' :: c :: cs => readDigits 16 (c :: cs) 0
  | c :: cs => readDigits 10 (c :: cs) 0

/-- The text without its spaces. Spaces between the parts of a line carry nothing (log 6). -/
def dropSpaces (cs : List Char) : List Char := cs.filter (· != ' ')

/-- The pieces of a text between its commas. -/
def splitCommas : List Char → List (List Char)
  | [] => [[]]
  | c :: cs =>
    match splitCommas cs with
    | [] => [[c]]
    | p :: ps => if c = ',' then [] :: p :: ps else (c :: p) :: ps

/-- The operands of a line: numbers between commas, or none at all. -/
def readOperands (cs : List Char) : Option (List Nat) :=
  match dropSpaces cs with
  | [] => some []
  | d :: ds => (splitCommas (d :: ds)).mapM readNumber

/-- One line of the assembler (R83, R84): a mnemonic, then its operands. -/
def readLine (cs : List Char) : Option Asm :=
  let body := cs.dropWhile (· == ' ')
  match String.ofList (body.takeWhile (· != ' ')), readOperands (body.dropWhile (· != ' ')) with
  | "ENCODE", some [v] => some (.encode v)
  | "SET_LED", some [i, r, g, b, w] => some (.setLed i r g b w)
  | "SET_LED", some [i, r, g, b] => some (.setLedRgb i r g b)
  | "FILL", some [r, g, b, w] => some (.fill r g b w)
  | "FILL", some [r, g, b] => some (.fillRgb r g b)
  | "BUILD", some [] => some .build
  | "UPDATE", some [d] => some (.update d)
  | "UPDATE", some [] => some .updateNow
  | "CLOSE", some [] => some .close
  | "CLEAR", some [] => some .clear
  | _, _ => none

end Sys2Proof
end

