-- ==== Sys2Proof/Config.lean ====
section
/-! DEFINITION. The construction parameters of 00_scope.md R8, the premise `ConfigOK` of 70_reset_and_hazards.md R197, and
the free values that stand for the parameters no rule fixes. -/

namespace Sys2Proof

/-- The colour mode (R8, R9). -/
inductive Mode where
  | rgb
  | rgbw
deriving DecidableEq, Repr, Inhabited

/-- The construction parameters, as somebody may ask for them (R8). -/
structure Params where
  /-- `MODE`. -/
  mode       : Mode
  /-- `NUM_LEDS`. -/
  numLeds    : Nat
  /-- `CLOCK_KHZ`: passed to the transport, no byte depends on it (R136). -/
  clockKHz   : Nat
  /-- `DEVICE_PATH`: the transport's, never read by the block (D33). -/
  devicePath : String
  /-- `HEADER_LEN`: an argument with default 64 (R12). -/
  headerLen  : Nat := 64
  /-- `ONE_BYTE`: OPEN (R11). -/
  oneByte    : Byte
  /-- `ZERO_BYTE`: OPEN (R11). -/
  zeroByte   : Byte
deriving DecidableEq, Repr

/-- `ConfigOK` (R197). Item 1 holds by the type `Mode`, and `HEADER_LEN ≥ 0` by the type `Nat`; the value 64 is a default, not
a condition (R12, log 4). -/
def Params.ok (p : Params) : Bool :=
  decide (1 ≤ p.numLeds) && decide (p.numLeds ≤ 2 ^ 24 - 1) && decide (1 ≤ p.clockKHz) && decide (p.oneByte ≠ p.zeroByte)

/-- A configuration the model gives a meaning: parameters together with the proof of `ConfigOK`, so that no other
configuration can be built (R197: one outside `ConfigOK` "is refused by the model, not given a meaning"). -/
structure Config extends Params where
  ok : toParams.ok = true
deriving DecidableEq, Repr

/-! ## The free values (log 1)

No rule gives these parameters a value, so each is a constant nothing can evaluate. They are shaped so that every
configuration within `ConfigOK` with `HEADER_LEN = 64` is one of their values, and no other. -/

/-- `MODE`, free. -/
opaque Config.freeMode : Mode
/-- `NUM_LEDS - 1`, free in `0 .. 2^24 - 2`. -/
opaque Config.freeLeds : Fin 16777215
/-- `CLOCK_KHZ - 1`, free. -/
opaque Config.freeClock : Nat
/-- `DEVICE_PATH`, free. -/
opaque Config.freePath : String
/-- `ZERO_BYTE`, free. -/
opaque Config.freeZero : Byte
/-- `ONE_BYTE - ZERO_BYTE - 1` modulo 256, free in `0 .. 254`, so that the two bytes differ (R11). -/
opaque Config.freeGap : Fin 255

/-- The parameters of the block that `State.reset` describes (log 1). -/
def Params.given : Params where
  mode := Config.freeMode
  numLeds := 1 + Config.freeLeds.val
  clockKHz := 1 + Config.freeClock
  devicePath := Config.freePath
  headerLen := 64
  oneByte := Config.freeZero + BitVec.ofNat 8 (1 + Config.freeGap.val)
  zeroByte := Config.freeZero

theorem Params.given_ok : Params.given.ok = true := by
  have hl := Config.freeLeds.isLt
  have hg := Config.freeGap.isLt
  have hne : Config.freeZero + BitVec.ofNat 8 (1 + Config.freeGap.val) ≠ Config.freeZero := by
    intro h
    bv_omega
  have h1 : 1 ≤ Params.given.numLeds := Nat.le_add_right 1 _
  have h2 : Params.given.numLeds ≤ 2 ^ 24 - 1 := by
    show 1 + Config.freeLeds.val ≤ 2 ^ 24 - 1
    omega
  have h3 : 1 ≤ Params.given.clockKHz := Nat.le_add_right 1 _
  have h4 : Params.given.oneByte ≠ Params.given.zeroByte := hne
  simp only [Params.ok, Bool.and_eq_true]
  exact ⟨⟨⟨decide_eq_true h1, decide_eq_true h2⟩, decide_eq_true h3⟩, decide_eq_true h4⟩

/-- The configuration of `State.reset`: free but for `HEADER_LEN = 64` (R12, log 1). -/
def Config.given : Config := ⟨Params.given, Params.given_ok⟩

end Sys2Proof
end

