-- ==== Sys2Proof/Machine/State.lean ====
section
/-! DEFINITION. The block's state (10_state.md R20), its reset value (R39, 70_reset_and_hazards.md R190), and the reasons the
model stops. -/

namespace Sys2Proof.Machine

/-- The phase register (R22). -/
inductive Phase where
  /-- Reset asserted; the construction sequence has not started. -/
  | reset
  /-- `open_req` sent; waiting for `open_ack`. -/
  | opening
  /-- The construction clear frame is handed over; waiting for `tx_done`. -/
  | initSend
  /-- Ready for a command. -/
  | idle
  /-- An UPDATE's frame is handed over; waiting for `tx_done`. -/
  | sending
  /-- An UPDATE's delay is running; waiting for `delay_done`. -/
  | delaying
  /-- The open failed; unusable until reset. -/
  | unopened
  /-- CLOSE executed; unusable until reset. -/
  | closed
deriving DecidableEq, Repr

/-- What the block emits (R32). -/
inductive Event where
  /-- A response to the host (R80). -/
  | resp (code : Byte) (data : Word)
  /-- The request to the transport to open the bus at `hz` hertz (log 10). -/
  | openReq (hz : Nat)
  /-- The hand-over of the frame: `TXBUF[0] ++ … ++ TXBUF[TXLEN-1]` at that moment. -/
  | txReq (frame : List Byte)
  /-- The request to the timer for a delay. -/
  | delayReq (us : Micros)
  /-- The request to the transport to release the bus. -/
  | release
deriving DecidableEq, Repr

/-- What the agents outside offer the block: the host's command words and its reset line (R70, R190, R191), the transport's
and the timer's events (R32). -/
inductive Input where
  /-- The host presents a word. -/
  | command (w : Word)
  /-- The host asserts reset. -/
  | resetAssert
  /-- The host releases reset. -/
  | resetRelease
  /-- The transport's `open_ack(ok)`. -/
  | openAck (ok : Bool)
  /-- The transport's `tx_done(ok)`. -/
  | txDone (ok : Bool)
  /-- The timer's `delay_done`. -/
  | delayDone
deriving DecidableEq, Repr

/-- The transmit buffer as cells in one canonical form (`Memory.wf`): addresses strictly rising, and no cell that holds what
an unlisted address reads as. -/
abbrev Memory := List Host.Cell

/-- The state of R20, with the configuration (item 1) as a field that nothing writes (R21), and `inputs`, the model's own. -/
structure State where
  /-- The configuration (R8). -/
  cfg       : Config
  /-- The phase register (R22). -/
  phase     : Phase
  /-- The LED store `led[0 .. NUM_LEDS-1]` (R24). -/
  leds      : List Color
  /-- The transmit buffer `TXBUF` (R27). -/
  txbuf     : Memory
  /-- The sticky fault bit (R30). -/
  fault     : Bool
  /-- The pending-delay register (R31). -/
  pendDelay : Micros
  /-- The event history, oldest first (R33). -/
  hist      : List Event
  /-- What the agents offer and the block has not taken yet, in the order offered (the model's own field, log 2). -/
  inputs    : List Input
deriving DecidableEq, Repr

/-- Why the model stops (log 9). -/
inductive Fault where
  /-- Raised by a command's meaning executed in a phase that holds commands: "the block takes no step for it" (R176). `step`
  never executes a command there. Safe: the model stops where the hardware waits. -/
  | held (p : Phase)
  /-- Raised by `step` when nothing offered is an input that phase `p` takes: the stuck run of R176 and R179. Safe: the model
  stops where the hardware waits. -/
  | stuck (p : Phase)
deriving DecidableEq, Repr

/-- What the model gives no meaning. -/
inductive Refusal where
  /-- The instruction has no meaning in the model yet; raised by no arm of `exec`. Safe. -/
  | notModelled (mnemonic : String)
  /-- Raised by `construct` for parameters outside `ConfigOK` (R197: refused by the model, not given a meaning). Safe. -/
  | configNotOk
deriving DecidableEq, Repr

/-- A block with configuration `c` right after reset is asserted (R39, first column; R190), with nothing offered yet (log 2). -/
def State.resetOf (c : Config) : State where
  cfg := c
  phase := .reset
  leds := List.replicate c.numLeds 0#32
  txbuf := []
  fault := false
  pendDelay := 0#32
  hist := []
  inputs := []

/-- The machine right after reset, its configuration free (log 1). -/
def State.reset : State := State.resetOf Config.given

end Sys2Proof.Machine
end

