-- ==== Sys2Proof/Machine/Flags.lean ====
section
/-! DEFINITION. The block has no condition flags (10_state.md R36): a command's outcome is the code of its response. The codes
of 60_exceptions.md R165, and the numbers of the phases. -/

namespace Sys2Proof.Machine

/-- The 3-bit number of a phase, a label that the host cannot read (R22). -/
def Phase.number : Phase → BitVec 3
  | .reset => 0#3
  | .opening => 1#3
  | .initSend => 2#3
  | .idle => 3#3
  | .sending => 4#3
  | .delaying => 5#3
  | .unopened => 6#3
  | .closed => 7#3

/-- `OK`. -/
def codeOk : Byte := 0x00#8
/-- `INDEX_ERROR`. -/
def codeIndexError : Byte := 0x01#8
/-- `TRANSPORT_ERROR`. -/
def codeTransportError : Byte := 0x02#8
/-- `ILLEGAL`. -/
def codeIllegal : Byte := 0x03#8
/-- `MODE_ERROR`. -/
def codeModeError : Byte := 0x04#8
/-- `NOT_OPEN`. -/
def codeNotOpen : Byte := 0x05#8
/-- `OPEN_ERROR`. -/
def codeOpenError : Byte := 0x06#8

/-- The code of a finished send: `OK` if it succeeded, else `TRANSPORT_ERROR` (R129, R194). -/
def sendCode (ok : Bool) : Byte := if ok then codeOk else codeTransportError

end Sys2Proof.Machine
end

