-- ==== Sys2Proof/Machine/Operands.lean ====
section
/-! DEFINITION. Operands and places: the channels of a colour (10_state.md R25, 41_frame.md R111), the checks on SET_LED's and
FILL's operands (43_led_state.md R152, R154), and the layout of `TXBUF` (00_scope.md R9, R10; 10_state.md R28; 41_frame.md R113). -/

namespace Sys2Proof.Machine

/-! ## Channels of a colour -/

/-- Red, `x[31:24]` (R25). -/
def red (x : Color) : Byte := x.extractLsb' 24 8
/-- Green, `x[23:16]` (R25). -/
def green (x : Color) : Byte := x.extractLsb' 16 8
/-- Blue, `x[15:8]` (R25). -/
def blue (x : Color) : Byte := x.extractLsb' 8 8
/-- White, `x[7:0]` (R25). -/
def white (x : Color) : Byte := x.extractLsb' 0 8

/-- The channel of wire slot `k`: green, red, blue, then white (R111). -/
def chan (x : Color) : Nat → Byte
  | 0 => green x
  | 1 => red x
  | 2 => blue x
  | _ => white x

/-! ## Checks -/

/-- A colour with a white channel on an RGB strip (R154). -/
def modeClash (c : Config) (col : Color) : Bool := decide (c.mode = .rgb) && decide (white col ≠ 0#8)

/-- `zext_32(IDX) < NUM_LEDS` (R74, R152). -/
def indexInRange (c : Config) (idx : Index) : Bool := decide ((idx.setWidth 32).toNat < c.numLeds)

/-! ## Layout of the transmit buffer -/

/-- `CH(MODE)` (R9). -/
def channels (c : Config) : Nat :=
  match c.mode with
  | .rgb => 3
  | .rgbw => 4

/-- `TXLEN` (R10). -/
def txLen (c : Config) : Nat := c.headerLen + c.numLeds * 8 * channels c

/-- The address of byte `j` of channel slot `k` of LED `i` (R113). -/
def slotAddr (c : Config) (i k j : Nat) : Nat := c.headerLen + (i * channels c + k) * 8 + j

end Sys2Proof.Machine
end

