-- ==== Sys2Proof/Machine/Ops.lean ====
section
/-! DEFINITION. The named operations: reading and writing the transmit buffer and the LED store, setting each register, emitting
events, answering the host, the one `NOT_OPEN` fault, and the acceptance of a command by the phase (00_scope.md R15). -/

namespace Sys2Proof.Machine

/-! ## The transmit buffer -/

/-- What an unlisted address of `TXBUF` reads as: the byte every address holds after reset (R190). -/
def Memory.unlisted : Byte := 0x00#8

/-- The canonical form: addresses strictly rising, no cell equal to what an unlisted address reads as. -/
abbrev Memory.wf (m : Memory) : Prop :=
  m.Pairwise (fun c d => c.1 < d.1) ∧ ∀ c ∈ m, c.2 ≠ Memory.unlisted

/-- `MemRead(a, 1)` (R27, R53); at or above `TXLEN`, where no access is formed (R60), the unlisted byte (log 8). -/
def Memory.read : Memory → Nat → Byte
  | [], _ => Memory.unlisted
  | c :: m, a => if c.1 = a then c.2 else Memory.read m a

/-- `b` at `a` before the cells of `m`, unless `b` is what an unlisted address reads as. -/
def Memory.cons (a : Nat) (b : Byte) (m : Memory) : Memory := if b = Memory.unlisted then m else (a, b) :: m

/-- `MemWrite(a, 1, b)` (R27, R53), in the canonical form. -/
def Memory.write : Memory → Nat → Byte → Memory
  | [], a, b => Memory.cons a b []
  | c :: m, a, b =>
    if a < c.1 then Memory.cons a b (c :: m)
    else if a = c.1 then Memory.cons a b m
    else c :: Memory.write m a b

/-- Writes in the order of the list. -/
def Memory.writeAll (m : Memory) (ws : List Host.Cell) : Memory :=
  ws.foldl (fun m w => Memory.write m w.1 w.2) m

/-! ## The LED store -/

/-- `led[i]` (R15, R24); at or above `NUM_LEDS`, where no access is formed (R60), zero (log 8). -/
def led (s : State) (i : Nat) : Color := s.leds.getD i 0#32

/-! ## One setter per register -/

/-- `phase <- p` (R15). -/
def State.setPhase (s : State) (p : Phase) : State := { s with phase := p }
/-- The LED store is `l`. -/
def State.setLeds (s : State) (l : List Color) : State := { s with leds := l }
/-- The transmit buffer is `m`. -/
def State.setTxbuf (s : State) (m : Memory) : State := { s with txbuf := m }
/-- `fault <- b`. -/
def State.setFault (s : State) (b : Bool) : State := { s with fault := b }
/-- `pend_delay <- d`. -/
def State.setPendDelay (s : State) (d : Micros) : State := { s with pendDelay := d }
/-- The history is `h`. -/
def State.setHist (s : State) (h : List Event) : State := { s with hist := h }
/-- The offered inputs are `is`. -/
def State.setInputs (s : State) (is : List Input) : State := { s with inputs := is }

/-- `led[i] <- c` for one entry (R15, R153). -/
def State.setLed (s : State) (i : Nat) (c : Color) : State := s.setLeds (s.leds.set i c)

/-- `led[i] <- c` for `i` in `0 .. NUM_LEDS-1` (R155, R190). -/
def State.fillLeds (s : State) (c : Color) : State := s.setLeds (List.replicate s.cfg.numLeds c)

/-! ## Events -/

/-- Appends one event to the history (R33). -/
def State.emit (s : State) (e : Event) : State := s.setHist (s.hist ++ [e])

/-- `respond(code, data)` (R80). -/
def State.respond (s : State) (code : Byte) (data : Word) : State := s.emit (.resp code data)

/-- The `TXLEN` bytes of the transmit buffer, in address order (R32, R52). -/
def txFrame (s : State) : List Byte := (List.range (txLen s.cfg)).map (Memory.read s.txbuf)

/-- `emit tx_req(TXLEN)`: the hand-over of the whole frame (R32, R126). -/
def State.emitTxReq (s : State) : State := s.emit (.txReq (txFrame s))

/-! ## The fault, and the acceptance of a command -/

/-- `raise NotOpen()`: the one exception of the block (R170). It saves nothing and transfers control nowhere (R175), and there
is no return from it but reset (R177). -/
def State.raiseNotOpen (s : State) : State := (s.setFault true).respond codeNotOpen 0#64

/-- The acceptance of a command: in `IDLE` it has its effect, in `UNOPENED` and `CLOSED` it raises `NOT_OPEN` (R170), and in any
other phase it is held, and the block takes no step for it (R70, R176). -/
def whenAccepted (s : State) (effect : State → State) : Host.Outcome State Fault Refusal :=
  match s.phase with
  | .idle => .next (effect s)
  | .unopened => .next s.raiseNotOpen
  | .closed => .next s.raiseNotOpen
  | .reset => .fault (.held .reset)
  | .opening => .fault (.held .opening)
  | .initSend => .fault (.held .initSend)
  | .sending => .fault (.held .sending)
  | .delaying => .fault (.held .delaying)

end Sys2Proof.Machine
end

