-- ==== Sys2Proof/Machine/Encoder.lean ====
section
/-! DEFINITION. The bitstream encoder and ENCODE (40_encoder.md). -/

namespace Sys2Proof.Machine

/-- The SPI byte of one protocol bit (R100). -/
def bitByte (c : Config) (b : Bool) : Byte := if b then c.oneByte else c.zeroByte

/-- `Enc(v)`: byte `j` encodes bit `7 - j` (R54, R100). -/
def enc (c : Config) (v : Byte) : List Byte :=
  (List.range 8).map (fun j => bitByte c (v.getLsbD (7 - j)))

/-- `e[0] ++ e[1] ++ … ++ e[7]` as one 64-bit value, `e[0]` in the high bits (R56, R105). -/
def packBytes (bs : List Byte) : Word :=
  bs.foldl (fun acc b => (acc <<< 8) ||| b.setWidth 64) 0#64

/-- ENCODE (R104). -/
def execEncode (v : Byte) (s : State) : Host.Outcome State Fault Refusal :=
  whenAccepted s (fun s => s.respond codeOk (packBytes (enc s.cfg v)))

end Sys2Proof.Machine
end

