-- ==== Sys2Proof/Machine/FrameAssembler.lean ====
section
/-! DEFINITION. The frame function and BUILD (41_frame.md). -/

namespace Sys2Proof.Machine

/-- The writes of one channel slot: its 8 encoded bytes at rising addresses (R110). -/
def slotWrites (c : Config) (x : Color) (i k : Nat) : List Host.Cell :=
  (List.range 8).map (fun j => (slotAddr c i k j, (enc c (chan x k)).getD j 0#8))

/-- The writes of `Frame(led)`, in the order of the loops of R110. -/
def frameWrites (s : State) : List Host.Cell :=
  (List.range s.cfg.numLeds).flatMap fun i =>
    (List.range (channels s.cfg)).flatMap fun k => slotWrites s.cfg (led s i) i k

/-- `Frame(led)`, one atomic step (R110, R114). -/
def State.frame (s : State) : State := s.setTxbuf (Memory.writeAll s.txbuf (frameWrites s))

/-- BUILD (R117). -/
def execBuild (s : State) : Host.Outcome State Fault Refusal :=
  whenAccepted s (fun s => s.frame.respond codeOk 0#64)

end Sys2Proof.Machine
end

