-- ==== Sys2Proof/Machine/Transport.lean ====
section
/-! DEFINITION. UPDATE and what follows it, and CLOSE (42_transport.md). -/

namespace Sys2Proof.Machine

/-- UPDATE, accept step (R126): build, keep the delay, hand the frame over, wait. -/
def execUpdate (dly : Micros) (s : State) : Host.Outcome State Fault Refusal :=
  whenAccepted s (fun s => ((s.frame.setPendDelay dly).emitTxReq).setPhase .sending)

/-- Back to `IDLE` with the response of an UPDATE or of the construction (R128, R129, R130, R194). -/
def State.finish (s : State) (code : Byte) : State := (s.setPhase .idle).respond code 0#64

/-- `tx_done(ok)` in phase `SENDING` (R128, R129). -/
def State.updateSent (s : State) (ok : Bool) : State :=
  if ok then
    if s.pendDelay ≠ 0#32 then (s.emit (.delayReq s.pendDelay)).setPhase .delaying
    else s.finish codeOk
  else s.finish codeTransportError

/-- `delay_done` in phase `DELAYING` (R130). -/
def State.delayEnded (s : State) : State := s.finish codeOk

/-- CLOSE (R140). -/
def execClose (s : State) : Host.Outcome State Fault Refusal :=
  whenAccepted s (fun s => ((s.emit .release).setPhase .closed).respond codeOk 0#64)

end Sys2Proof.Machine
end

