-- ==== Sys2Proof/Machine/Construction.lean ====
section
/-! DEFINITION. Reset and the construction sequence (70_reset_and_hazards.md R190 to R197), and the answer to a word that is no
command (60_exceptions.md R168). -/

namespace Sys2Proof.Machine

/-- A block built from parameters; refused outside `ConfigOK` (R197). -/
def construct (p : Params) : Host.Outcome State Fault Refusal :=
  if h : p.ok = true then .next (State.resetOf ⟨p, h⟩) else .refused .configNotOk

/-- Reset asserted (R190). What the agents offer stays theirs (log 3). -/
def State.assertReset (s : State) : State := (State.resetOf s.cfg).setInputs s.inputs

/-- Reset released (R191): the bus clock goes out in hertz (R135). -/
def State.releaseReset (s : State) : State :=
  (s.emit (.openReq (s.cfg.clockKHz * 1000))).setPhase .opening

/-- `open_ack(ok)` in phase `OPENING` (R192, R193). -/
def State.opened (s : State) (ok : Bool) : State :=
  if ok then (((s.fillLeds 0#32).frame).emitTxReq).setPhase .initSend
  else (s.setPhase .unopened).respond codeOpenError 0#64

/-- `tx_done(ok)` in phase `INIT_SEND` (R194). -/
def State.constructed (s : State) (ok : Bool) : State := s.finish (sendCode ok)

/-- A word that decodes as `Illegal` (R79, R168, R170). -/
def execIllegal (s : State) : Host.Outcome State Fault Refusal :=
  whenAccepted s (fun s => s.respond codeIllegal 0#64)

end Sys2Proof.Machine
end

