-- ==== Sys2Proof/Machine/LedState.lean ====
section
/-! DEFINITION. The LED-state writes SET_LED and FILL, of which CLEAR is a spelling (43_led_state.md). -/

namespace Sys2Proof.Machine

/-- SET_LED (R151): the mode check, then the index check, then the write. -/
def execSetLed (idx : Index) (col : Color) (s : State) : Host.Outcome State Fault Refusal :=
  whenAccepted s (fun s =>
    if modeClash s.cfg col then s.respond codeModeError 0#64
    else if indexInRange s.cfg idx then (s.setLed idx.toNat col).respond codeOk 0#64
    else s.respond codeIndexError 0#64)

/-- FILL (R155): the mode check, then every entry. -/
def execFill (col : Color) (s : State) : Host.Outcome State Fault Refusal :=
  whenAccepted s (fun s =>
    if modeClash s.cfg col then s.respond codeModeError 0#64
    else (s.fillLeds col).respond codeOk 0#64)

end Sys2Proof.Machine
end

