-- ==== Sys2Proof/Machine/Dispatch.lean ====
section
/-! DEFINITION. One arm per command. -/

namespace Sys2Proof.Machine

/-- The meaning of a command. -/
def exec (i : Instr) (s : State) : Host.Outcome State Fault Refusal :=
  match i with
  | .encode v => Sys2Proof.Machine.execEncode v s
  | .setLed idx col => Sys2Proof.Machine.execSetLed idx col s
  | .fill col => Sys2Proof.Machine.execFill col s
  | .build => Sys2Proof.Machine.execBuild s
  | .update dly => Sys2Proof.Machine.execUpdate dly s
  | .close => Sys2Proof.Machine.execClose s

end Sys2Proof.Machine
end

