-- ==== Sys2Proof/Machine/Inputs.lean ====
section
/-! DEFINITION. Which input a phase takes (10_state.md R22, R23; 60_exceptions.md R176, R179), and what each input does. -/

namespace Sys2Proof.Machine

/-- The phase takes the input: commands in `IDLE`, `UNOPENED` and `CLOSED`, the assertion of reset in any phase, and every other
event only in the phase that awaits it (R22, R23). -/
def Phase.takes (p : Phase) : Input → Bool
  | .command _ => decide (p = .idle) || decide (p = .unopened) || decide (p = .closed)
  | .resetAssert => true
  | .resetRelease => decide (p = .reset)
  | .openAck _ => decide (p = .opening)
  | .txDone _ => decide (p = .initSend) || decide (p = .sending)
  | .delayDone => decide (p = .delaying)

/-- The first offered input that the phase takes, and the others in their order; none where there is no such input. The others
stay offered: a word stays "with the host" (R70), and an event no phase awaits is not consumed (R179). -/
def takeInput (p : Phase) : List Input → Option (Input × List Input)
  | [] => none
  | i :: is =>
    if p.takes i then some (i, is)
    else
      match takeInput p is with
      | some (j, js) => some (j, i :: js)
      | none => none

/-- The block takes a word from the port (R70, R78). -/
def runCommand (w : Word) (s : State) : Host.Outcome State Fault Refusal :=
  match decode w with
  | .ok i => exec i s
  | .error _ => execIllegal s

/-- The block takes an input. -/
def runInput (inp : Input) (s : State) : Host.Outcome State Fault Refusal :=
  match inp with
  | .command w => runCommand w s
  | .resetAssert => .next s.assertReset
  | .resetRelease => .next s.releaseReset
  | .openAck ok => .next (s.opened ok)
  | .txDone ok => .next (if s.phase = .initSend then s.constructed ok else s.updateSent ok)
  | .delayDone => .next s.delayEnded

end Sys2Proof.Machine
end

