-- ==== Sys2Proof/Machine/Step.lean ====
section
/-! DEFINITION. One step of the block: it takes the first offered input that its phase takes, or it is stuck. -/

namespace Sys2Proof.Machine

/-- One atomic step (00_scope.md R16). -/
def step (s : State) : Host.Outcome State Fault Refusal :=
  match takeInput s.phase s.inputs with
  | some (inp, rest) => runInput inp (s.setInputs rest)
  | none => .fault (.stuck s.phase)

/-- The state in which the next step takes the word: the block is ready (phase `IDLE`), and the host presents the word before
anything else it offers (log 5). -/
def State.withFetchWord (s : State) (nbits w : Nat) : State :=
  (s.setPhase .idle).setInputs (.command (tableWord nbits w) :: s.inputs)

end Sys2Proof.Machine
end

