-- ==== Sys2Proof/Safety.lean ====
section
/-! DEFINITION. What counts as a safe run, and the whole-machine notions the statements use: the invariant of the state, the
legal events of a history, the phase table of 10_state.md R23, the priority of results of 60_exceptions.md R173. -/

namespace Sys2Proof.Machine

/-! ## Runs -/

/-- `t` comes from `s` by steps of the block. -/
inductive Reaches : State → State → Prop where
  | refl (s : State) : Reaches s s
  | step {s t u : State} (h : Reaches s t) (hu : Machine.step t = .next u) : Reaches s u

/-- The end state of a run that claims may rest on: `fault = 0` (R30, R186). -/
def State.unfaulted (s : State) : Prop := s.fault = false

/-! ## The invariant -/

/-- What holds of the block at reset and after every step. -/
structure State.Inv (s : State) : Prop where
  /-- The LED store has `NUM_LEDS` entries (R24). -/
  leds_length : s.leds.length = s.cfg.numLeds
  /-- In RGB mode every entry has `white = 0` (R26). -/
  rgb_white : s.cfg.mode = .rgb → ∀ x ∈ s.leds, white x = 0#8
  /-- The transmit buffer is in its canonical form. -/
  txbuf_wf : Memory.wf s.txbuf
  /-- Only LED-segment bytes can be non-zero: every header byte is `0x00` (R29), and no address at or above `TXLEN` holds
  anything (R61). -/
  txbuf_range : ∀ c ∈ s.txbuf, s.cfg.headerLen ≤ c.1 ∧ c.1 < txLen s.cfg
  /-- The fault bit is set only where nothing but reset leads out (R23, R30, R170). -/
  fault_phase : s.fault = true → s.phase = .unopened ∨ s.phase = .closed
  /-- A delay is running only if one was asked for (R128). -/
  delaying : s.phase = .delaying → s.pendDelay ≠ 0#32

/-! ## Histories -/

/-- An event a block with configuration `c` may emit: a response has a code of R165, and data only with `OK` (R80, R166); the
bus is opened at `CLOCK_KHZ * 1000` hertz (R135); a frame has `TXLEN` bytes, a header of zeros, and then only the two constants
(R10, R29, R112); a delay is not zero (R128). -/
def Event.legal (c : Config) : Event → Prop
  | .resp code data => code.toNat ≤ 6 ∧ (code ≠ 0x00#8 → data = 0#64)
  | .openReq hz => hz = c.clockKHz * 1000
  | .txReq frame =>
    frame.length = txLen c ∧ (∀ a, a < c.headerLen → frame[a]? = some 0x00#8) ∧
      ∀ a, c.headerLen ≤ a → a < txLen c → frame[a]? = some c.oneByte ∨ frame[a]? = some c.zeroByte
  | .delayReq us => us ≠ 0#32
  | .release => True

/-- Every event of the history is legal. -/
def State.histLegal (s : State) : Prop := ∀ e ∈ s.hist, Event.legal s.cfg e

/-- While the block waits for an agent, the last thing it did was to ask that agent (R23, R178), and a frame in flight is exactly
the bytes that `TXBUF` still holds (R63, R200). -/
structure State.asked (s : State) : Prop where
  /-- Nothing is asked while reset is asserted (R190). -/
  reset : s.phase = .reset → s.hist = []
  /-- The open is the first request, and the only one so far (R135, R191). -/
  opening : s.phase = .opening → s.hist = [.openReq (s.cfg.clockKHz * 1000)]
  /-- The frame handed over is what the buffer holds. -/
  frame : s.phase = .initSend ∨ s.phase = .sending → ∃ h, s.hist = h ++ [.txReq (txFrame s)]
  /-- The delay asked for is the one kept (R128). -/
  delay : s.phase = .delaying → ∃ h, s.hist = h ++ [.delayReq s.pendDelay]

/-- The codes of the responses among some events, in order. -/
def respCodes (es : List Event) : List Byte :=
  es.filterMap fun e =>
    match e with
    | .resp code _ => some code
    | _ => none

/-! ## Tables of the spec -/

/-- The phase table of R23: the phase to which an input leads, none where the table has no row. -/
def phaseAfter (s : State) : Input → Option Phase
  | .resetAssert => some .reset
  | .resetRelease => if s.phase = .reset then some .opening else none
  | .openAck ok => if s.phase = .opening then some (if ok then .initSend else .unopened) else none
  | .txDone ok =>
    if s.phase = .initSend then some .idle
    else if s.phase = .sending then
      some (if ok then (if s.pendDelay ≠ 0#32 then .delaying else .idle) else .idle)
    else none
  | .delayDone => if s.phase = .delaying then some .idle else none
  | .command w =>
    if s.phase = .unopened then some .unopened
    else if s.phase = .closed then some .closed
    else if s.phase = .idle then
      match decode w with
      | .ok (.update _) => some .sending
      | .ok .close => some .closed
      | .ok (.encode _) => some .idle
      | .ok (.setLed _ _) => some .idle
      | .ok (.fill _) => some .idle
      | .ok .build => some .idle
      | .error _ => some .idle
    else none

/-- The codes of the responses that a word gets in the step that accepts it: the first result of R173 that applies, and none
yet for an UPDATE that none of the errors stops (R81). -/
def acceptCodes (s : State) (w : Word) : List Byte :=
  if s.phase = .unopened ∨ s.phase = .closed then [0x05#8]
  else
    match decode w with
    | .error _ => [0x03#8]
    | .ok (.setLed idx col) =>
      if s.cfg.mode = .rgb ∧ col.extractLsb' 0 8 ≠ 0#8 then [0x04#8]
      else if s.cfg.numLeds ≤ idx.toNat then [0x01#8]
      else [0x00#8]
    | .ok (.fill col) => if s.cfg.mode = .rgb ∧ col.extractLsb' 0 8 ≠ 0#8 then [0x04#8] else [0x00#8]
    | .ok (.update _) => []
    | .ok (.encode _) => [0x00#8]
    | .ok .build => [0x00#8]
    | .ok .close => [0x00#8]

/-! ## What the bus parameters may change -/

/-- An event with the bus clock hidden. -/
def Event.hideClock : Event → Event
  | .openReq _ => .openReq 0
  | .resp code data => .resp code data
  | .txReq frame => .txReq frame
  | .delayReq us => .delayReq us
  | .release => .release

/-- Two blocks that differ at most in `CLOCK_KHZ`, in `DEVICE_PATH`, and in the clock they asked the bus to be opened with. -/
structure SameButBus (s t : State) : Prop where
  mode : s.cfg.mode = t.cfg.mode
  numLeds : s.cfg.numLeds = t.cfg.numLeds
  headerLen : s.cfg.headerLen = t.cfg.headerLen
  oneByte : s.cfg.oneByte = t.cfg.oneByte
  zeroByte : s.cfg.zeroByte = t.cfg.zeroByte
  phase : s.phase = t.phase
  leds : s.leds = t.leds
  txbuf : s.txbuf = t.txbuf
  fault : s.fault = t.fault
  pendDelay : s.pendDelay = t.pendDelay
  hist : s.hist.map Event.hideClock = t.hist.map Event.hideClock
  inputs : s.inputs = t.inputs

end Sys2Proof.Machine
end

