-- ==== Sys2Proof/Certificates/Slice0/Obligations.lean ====
section
/-! DEFINITION. The statements for the provers, in the order of the spec's files. Where a statement speaks of an input the block
takes, its hypothesis `takeInput s.phase s.inputs = some (inp, rest)` says that `inp` is the first offered input the phase takes
and `rest` the other ones (log 2). -/

open Sys2Proof Sys2Proof.Machine

/-! ## 00_scope.md -/

/-- R9 and R10: the channel count and the transmit length. The last clause, the bound of `TXLEN` for the header of this hardware and
that every buffer address then fits in 32 bits, is an inference that R10 marks as its own, without its wrong `2^29` (log 7). -/
def Obligations.ChannelCountAndTransmitLength : Prop :=
  ∀ c : Config,
    (c.mode = .rgb → channels c = 3) ∧ (c.mode = .rgbw → channels c = 4) ∧
    txLen c = c.headerLen + c.numLeds * 8 * channels c ∧
    (c.headerLen = 64 → txLen c ≤ 64 + (2 ^ 24 - 1) * 32 ∧ txLen c < 2 ^ 32)

/-- R10's inference `64 + (2^24 - 1) * 32 < 2^29`, as the spec writes it. EXPECTED TO FAIL: the left side is `2^29 + 32`, and an RGBW
strip of `2^24 - 1` LEDs reaches it (log 7). Nothing in the model rests on it. -/
def Obligations.TransmitLengthBelowTwoToThe29 : Prop :=
  ∀ c : Config, c.headerLen = 64 → txLen c < 2 ^ 29

/-- R197: parameters within `ConfigOK` make a block, and others are refused. (`HEADER_LEN = 64` is a default, log 4.) -/
def Obligations.ParametersOutsideConfigOkAreRefused : Prop :=
  ∀ p : Params,
    ((1 ≤ p.numLeds ∧ p.numLeds ≤ 2 ^ 24 - 1 ∧ 1 ≤ p.clockKHz ∧ p.oneByte ≠ p.zeroByte) →
      ∃ h : p.ok = true, construct p = .next (State.resetOf ⟨p, h⟩)) ∧
    (¬(1 ≤ p.numLeds ∧ p.numLeds ≤ 2 ^ 24 - 1 ∧ 1 ≤ p.clockKHz ∧ p.oneByte ≠ p.zeroByte) →
      construct p = .refused .configNotOk)

/-! ## 30_encoding.md -/

/-- Words of R85, one or more for each command, decode to the commands they stand for. -/
def Obligations.WordsOfTheSpecDecode : Prop :=
  decode 0x01000000000000A5#64 = .ok (.encode 0xA5#8) ∧
  decode 0x0200000101020300#64 = .ok (.setLed 1#24 0x01020300#32) ∧
  decode 0x0200FFFF00000009#64 = .ok (.setLed 0x00FFFF#24 0x00000009#32) ∧
  decode 0x0300000010203040#64 = .ok (.fill 0x10203040#32) ∧
  decode 0x0300000000000000#64 = .ok (.fill 0#32) ∧
  decode 0x0400000000000000#64 = .ok .build ∧
  decode 0x0500000000004E20#64 = .ok (.update 20000#32) ∧
  decode 0x0600000000000000#64 = .ok .close

/-- Decode and encode agree: for every command, with every operand at every value, no bit of the encoding is dropped. -/
def Obligations.DecodeOfEncode : Prop :=
  ∀ i : Instr, decode (encode i) = .ok i

/-- Each command has one word only (R82): a word that decodes to a command is the word of that command. -/
def Obligations.EncodeOfDecode : Prop :=
  ∀ (w : Word) (i : Instr), decode w = .ok i → encode i = w

/-- R78: the decoder gives a command exactly for the words of that command's match and mask in the opcode table, and no word
lies in two rows. -/
def Obligations.DecoderFollowsTheOpcodeTable : Prop :=
  (∀ (w : Word) (r : Row), r ∈ opcodeTable →
    ((∃ i : Instr, decode w = .ok i ∧ i.mnemonic = r.mnemonic) ↔ w &&& r.mask = r.matchBits)) ∧
  (∀ (w : Word) (i : Instr), decode w = .ok i → ∃ r ∈ opcodeTable, r.mnemonic = i.mnemonic) ∧
  opcodeTable.Pairwise (fun a b => ∀ w : Word, ¬(w &&& a.mask = a.matchBits ∧ w &&& b.mask = b.matchBits))

/-- R72, R77 and R79: a word is `Illegal` exactly if its `OP` is reserved, or a field that its command marks `0` is not zero. -/
def Obligations.IllegalWordsAreReservedOrNotZero : Prop :=
  ∀ w : Word,
    (decode w = .error .reservedOp ↔ (w.extractLsb' 56 8).toNat = 0 ∨ 7 ≤ (w.extractLsb' 56 8).toNat) ∧
    (decode w = .error .nonZeroField ↔
      (w.extractLsb' 56 8 = 0x01#8 ∧ w.extractLsb' 8 48 ≠ 0#48) ∨
      (w.extractLsb' 56 8 = 0x03#8 ∧ w.extractLsb' 32 24 ≠ 0#24) ∨
      (w.extractLsb' 56 8 = 0x04#8 ∧ w.extractLsb' 0 56 ≠ 0#56) ∨
      (w.extractLsb' 56 8 = 0x05#8 ∧ w.extractLsb' 32 24 ≠ 0#24) ∨
      (w.extractLsb' 56 8 = 0x06#8 ∧ w.extractLsb' 0 56 ≠ 0#56))

/-- R83 and R84: the assembler puts each operand into its field, produces no word for an operand outside its field's width, and
expands the pseudo-commands. -/
def Obligations.AssemblerPlacesOperands : Prop :=
  (∀ v : Nat,
    (v < 256 → ∃ x, assemble (.encode v) = some x ∧ x.toNat = 0x01 * 2 ^ 56 + v) ∧
    (256 ≤ v → assemble (.encode v) = none)) ∧
  (∀ i r g b w : Nat,
    (i < 2 ^ 24 ∧ r < 256 ∧ g < 256 ∧ b < 256 ∧ w < 256 →
      ∃ x, assemble (.setLed i r g b w) = some x ∧
        x.toNat = 0x02 * 2 ^ 56 + i * 2 ^ 32 + r * 2 ^ 24 + g * 2 ^ 16 + b * 2 ^ 8 + w) ∧
    (¬(i < 2 ^ 24 ∧ r < 256 ∧ g < 256 ∧ b < 256 ∧ w < 256) → assemble (.setLed i r g b w) = none) ∧
    assemble (.setLedRgb i r g b) = assemble (.setLed i r g b 0)) ∧
  (∀ r g b w : Nat,
    (r < 256 ∧ g < 256 ∧ b < 256 ∧ w < 256 →
      ∃ x, assemble (.fill r g b w) = some x ∧
        x.toNat = 0x03 * 2 ^ 56 + r * 2 ^ 24 + g * 2 ^ 16 + b * 2 ^ 8 + w) ∧
    (¬(r < 256 ∧ g < 256 ∧ b < 256 ∧ w < 256) → assemble (.fill r g b w) = none) ∧
    assemble (.fillRgb r g b) = assemble (.fill r g b 0)) ∧
  (∀ d : Nat,
    (d < 2 ^ 32 → ∃ x, assemble (.update d) = some x ∧ x.toNat = 0x05 * 2 ^ 56 + d) ∧
    (2 ^ 32 ≤ d → assemble (.update d) = none)) ∧
  assemble .build = some 0x0400000000000000#64 ∧ assemble .close = some 0x0600000000000000#64 ∧
  assemble .clear = assemble (.fill 0 0 0 0) ∧ assemble .updateNow = assemble (.update 0)

/-- A step that takes a word runs the command the word decodes to, on the state with that word taken from what is offered; a
word that decodes to no command is answered as `Illegal`; and a word placed for the next step is run by it. -/
def Obligations.StepRunsTheDecodedCommand : Prop :=
  ∀ (s : State) (w : Word) (rest : List Input), takeInput s.phase s.inputs = some (.command w, rest) →
    (∀ i, decode w = .ok i → step s = exec i (s.setInputs rest)) ∧
    (∀ e, decode w = .error e → step s = execIllegal (s.setInputs rest)) ∧
    (∀ (t : State) (nbits x : Nat) (i : Instr), decodeTableWord nbits x = some i →
      step (t.withFetchWord nbits x) = exec i (t.setPhase .idle))

/-! ## 40_encoder.md -/

/-- R100: the encoding of a channel value has 8 bytes, and byte `j` is `ONE_BYTE` exactly if bit `7 - j` is set. -/
def Obligations.EncoderBytes : Prop :=
  ∀ (c : Config) (v : Byte),
    (enc c v).length = 8 ∧
    ∀ j, j < 8 → (enc c v)[j]? = some (if v.getLsbD (7 - j) = true then c.oneByte else c.zeroByte)

/-- R101: the encoder is one-to-one, and each bit is recovered from its byte. -/
def Obligations.EncoderIsOneToOne : Prop :=
  ∀ (c : Config) (v : Byte),
    (∀ j, j < 8 → (v.getLsbD (7 - j) = true ↔ (enc c v)[j]? = some c.oneByte)) ∧
    ∀ v' : Byte, enc c v = enc c v' → v = v'

/-- R105: the packing of the ENCODE result, and its sum written out. -/
def Obligations.EncodeResultPacking : Prop :=
  ∀ (c : Config) (v : Byte),
    (∀ j, j < 8 → some ((packBytes (enc c v)).extractLsb' (56 - 8 * j) 8) = (enc c v)[j]?) ∧
    ∀ e0 e1 e2 e3 e4 e5 e6 e7 : Byte, enc c v = [e0, e1, e2, e3, e4, e5, e6, e7] →
      (packBytes (enc c v)).toNat =
        e0.toNat * 2 ^ 56 + e1.toNat * 2 ^ 48 + e2.toNat * 2 ^ 40 + e3.toNat * 2 ^ 32 +
          e4.toNat * 2 ^ 24 + e5.toNat * 2 ^ 16 + e6.toNat * 2 ^ 8 + e7.toNat

/-- R104: in `IDLE`, ENCODE answers `OK` with the encoding of its operand, the first byte in the high bits, and changes nothing
else. -/
def Obligations.EncodeAnswersTheEncoding : Prop :=
  ∀ (s : State) (v : Byte), s.phase = .idle →
    ∃ data : Word,
      exec (.encode v) s = .next { s with hist := s.hist ++ [.resp 0x00#8 data] } ∧
      ∀ j, j < 8 →
        data.extractLsb' (56 - 8 * j) 8 = if v.getLsbD (7 - j) = true then s.cfg.oneByte else s.cfg.zeroByte

/-! ## 41_frame.md -/

/-- R113: the address arithmetic of the LED segments: in range, one-to-one, onto, and below `2^32` on this
hardware (not below `2^29`, log 7). -/
def Obligations.SlotAddressesTileTheSegments : Prop :=
  ∀ c : Config,
    (∀ i k j, i < c.numLeds → k < channels c → j < 8 →
      c.headerLen ≤ slotAddr c i k j ∧ slotAddr c i k j < txLen c ∧
        (c.headerLen = 64 → slotAddr c i k j < 2 ^ 32)) ∧
    (∀ i k j i' k' j', k < channels c → j < 8 → k' < channels c → j' < 8 →
      slotAddr c i k j = slotAddr c i' k' j' → i = i' ∧ k = k' ∧ j = j') ∧
    (∀ a, c.headerLen ≤ a → a < txLen c →
      ∃ i k j, i < c.numLeds ∧ k < channels c ∧ j < 8 ∧ slotAddr c i k j = a)

/-- R110 and R111: after the frame function, byte `j` of slot `k` of LED `i` is byte `j` of the encoding of the channel of that
slot, in the order green, red, blue, white. -/
def Obligations.FramePlacesEveryChannel : Prop :=
  ∀ (s : State) (i k j : Nat), Memory.wf s.txbuf → i < s.cfg.numLeds → k < channels s.cfg → j < 8 →
    let x := led s i
    let v : Byte :=
      if k = 0 then x.extractLsb' 16 8 else if k = 1 then x.extractLsb' 24 8
      else if k = 2 then x.extractLsb' 8 8 else x.extractLsb' 0 8
    Memory.read s.frame.txbuf (s.cfg.headerLen + (i * channels s.cfg + k) * 8 + j) =
      if v.getLsbD (7 - j) = true then s.cfg.oneByte else s.cfg.zeroByte

/-- R112: the frame function changes nothing but the transmit buffer, writes no byte outside the LED segments, and leaves every
byte of theirs one of the two constants. -/
def Obligations.FrameWritesOnlyTheSegments : Prop :=
  ∀ s : State, Memory.wf s.txbuf →
    s.frame = { s with txbuf := s.frame.txbuf } ∧
    (∀ a, a < s.cfg.headerLen ∨ txLen s.cfg ≤ a → Memory.read s.frame.txbuf a = Memory.read s.txbuf a) ∧
    (∀ a, s.cfg.headerLen ≤ a → a < txLen s.cfg →
      Memory.read s.frame.txbuf a = s.cfg.oneByte ∨ Memory.read s.frame.txbuf a = s.cfg.zeroByte)

/-- R115 and R116: the whole buffer after the frame function is the header of zeros and then the segments of the LEDs in
order, so it depends on the LED store and the configuration alone; its length is `TXLEN`. -/
def Obligations.FrameIsHeaderThenSegments : Prop :=
  ∀ s : State, s.Inv →
    let seg := fun x : Color => (List.range (channels s.cfg)).flatMap (fun k => enc s.cfg (chan x k))
    txFrame s.frame = List.replicate s.cfg.headerLen 0x00#8 ++ s.leds.flatMap seg ∧
    (txFrame s.frame).length = s.cfg.headerLen + s.cfg.numLeds * 8 * channels s.cfg ∧
    ∀ x, (seg x).length = 8 * channels s.cfg

/-- R119: an LED with `red = 1`, `green = 2`, `blue = 3` has a segment that starts with the encodings of 2, 1 and 3. -/
def Obligations.GreenRedBlueOrder : Prop :=
  ∀ (s : State) (i : Nat), Memory.wf s.txbuf → i < s.cfg.numLeds → led s i = 0x01020300#32 →
    (List.range 24).map (fun n => Memory.read s.frame.txbuf (s.cfg.headerLen + i * channels s.cfg * 8 + n)) =
      enc s.cfg 2#8 ++ enc s.cfg 1#8 ++ enc s.cfg 3#8

/-- R120: the clear frame. -/
def Obligations.ClearFrame : Prop :=
  ∀ s : State, s.Inv → (∀ x ∈ s.leds, x = 0x00000000#32) →
    txFrame s.frame =
      List.replicate s.cfg.headerLen 0x00#8 ++ List.replicate (s.cfg.numLeds * 8 * channels s.cfg) s.cfg.zeroByte

/-- R117: in `IDLE`, BUILD runs the frame function, answers `OK`, and changes nothing else. -/
def Obligations.BuildRunsTheFrameFunction : Prop :=
  ∀ s : State, s.phase = .idle →
    exec .build s = .next { s with txbuf := s.frame.txbuf, hist := s.hist ++ [.resp 0x00#8 0#64] }

/-- R117's corner case: two BUILDs in a row leave the buffer as one does, as data and not only byte by byte. -/
def Obligations.BuildTwiceIsBuildOnce : Prop :=
  ∀ s t u : State, Memory.wf s.txbuf → exec .build s = .next t → exec .build t = .next u → u.txbuf = t.txbuf

/-! ## 42_transport.md -/

/-- R126: the accept step of UPDATE. -/
def Obligations.UpdateBuildsAndHandsOver : Prop :=
  ∀ (s : State) (dly : Micros), s.phase = .idle →
    exec (.update dly) s =
      .next { s with
        txbuf := s.frame.txbuf, pendDelay := dly, phase := .sending,
        hist := s.hist ++ [.txReq ((List.range (txLen s.cfg)).map (Memory.read s.frame.txbuf))] }

/-- R128: a successful send of an UPDATE starts the delay if one was asked for, and else ends the UPDATE with `OK`. -/
def Obligations.SuccessfulSend : Prop :=
  ∀ (s : State) (rest : List Input), s.phase = .sending →
    takeInput s.phase s.inputs = some (.txDone true, rest) →
    (s.pendDelay ≠ 0#32 → step s =
      .next { s with inputs := rest, phase := .delaying, hist := s.hist ++ [.delayReq s.pendDelay] }) ∧
    (s.pendDelay = 0#32 → step s =
      .next { s with inputs := rest, phase := .idle, hist := s.hist ++ [.resp 0x00#8 0#64] })

/-- R129: a failed send of an UPDATE ends it with `TRANSPORT_ERROR` and no delay, whatever delay was asked for. -/
def Obligations.FailedSend : Prop :=
  ∀ (s : State) (rest : List Input), s.phase = .sending →
    takeInput s.phase s.inputs = some (.txDone false, rest) →
    step s = .next { s with inputs := rest, phase := .idle, hist := s.hist ++ [.resp 0x02#8 0#64] }

/-- R130: the end of the delay ends the UPDATE with `OK`. -/
def Obligations.EndOfDelay : Prop :=
  ∀ (s : State) (rest : List Input), takeInput s.phase s.inputs = some (.delayDone, rest) →
    s.phase = .delaying ∧
    step s = .next { s with inputs := rest, phase := .idle, hist := s.hist ++ [.resp 0x00#8 0#64] }

/-- R132: when the transport and the timer answer, an UPDATE ends in `IDLE` with exactly one response, after its frame and, if
the send succeeded and a delay was asked for, its delay request. The answers stand directly behind the word in what is offered
(log 2); `SuccessfulSend`, `FailedSend` and `EndOfDelay` cover every other place. -/
def Obligations.UpdateEndsInOneResponse : Prop :=
  ∀ (s : State) (w : Word) (dly : Micros) (ok : Bool) (rest : List Input),
    s.phase = .idle → decode w = .ok (.update dly) →
    let frame := txFrame s.frame
    (s.inputs = .command w :: .txDone ok :: rest → (ok = false ∨ dly = 0#32) →
      ∃ t, Sys2Proof.core.run 2 s = .next t ∧ t.phase = .idle ∧ t.leds = s.leds ∧ t.inputs = rest ∧
        t.hist = s.hist ++ [.txReq frame, .resp (if ok = true then 0x00#8 else 0x02#8) 0#64]) ∧
    (s.inputs = .command w :: .txDone true :: .delayDone :: rest → dly ≠ 0#32 →
      ∃ t, Sys2Proof.core.run 3 s = .next t ∧ t.phase = .idle ∧ t.leds = s.leds ∧ t.inputs = rest ∧
        t.hist = s.hist ++ [.txReq frame, .delayReq dly, .resp 0x00#8 0#64])

/-- R133 and R118: the frame an UPDATE sends depends on the LED store and the configuration alone: neither an earlier UPDATE,
nor a BUILD, nor anything else that wrote the buffer shows in it. -/
def Obligations.SameLedsSendTheSameFrame : Prop :=
  ∀ (s t : State) (d e : Micros), s.Inv → t.Inv → s.cfg = t.cfg → s.leds = t.leds → s.phase = .idle → t.phase = .idle →
    ∃ (frame : List Byte) (s' t' : State),
      exec (.update d) s = .next s' ∧ s'.hist = s.hist ++ [.txReq frame] ∧
      exec (.update e) t = .next t' ∧ t'.hist = t.hist ++ [.txReq frame]

/-- R134: no command but UPDATE hands a frame over, and in a whole step only an UPDATE in `IDLE` and the successful open of the
construction do. -/
def Obligations.OnlyUpdateAndConstructionSend : Prop :=
  ∀ (s t : State) (inp : Input) (rest : List Input),
    takeInput s.phase s.inputs = some (inp, rest) → step s = .next t →
    (∃ ev, t.hist = s.hist ++ ev ∧ ∀ f, Event.txReq f ∉ ev) ∨
    (∃ w dly, inp = .command w ∧ decode w = .ok (.update dly) ∧ s.phase = .idle) ∨
    (inp = .openAck true ∧ s.phase = .opening) ∨
    (inp = .resetAssert ∧ t.hist = [])

/-- R140: in `IDLE`, CLOSE releases the bus, answers `OK`, and leaves the block closed; nothing else changes. -/
def Obligations.CloseReleasesTheBus : Prop :=
  ∀ s : State, s.phase = .idle →
    exec .close s = .next { s with phase := .closed, hist := s.hist ++ [.release, .resp 0x00#8 0#64] }

/-! ## 43_led_state.md -/

/-- R151, R152 and R154: SET_LED in `IDLE`. -/
def Obligations.SetLedInIdle : Prop :=
  ∀ (s : State) (idx : Index) (col : Color), s.phase = .idle →
    (s.cfg.mode = .rgb ∧ col.extractLsb' 0 8 ≠ 0#8 →
      exec (.setLed idx col) s = .next { s with hist := s.hist ++ [.resp 0x04#8 0#64] }) ∧
    (¬(s.cfg.mode = .rgb ∧ col.extractLsb' 0 8 ≠ 0#8) → s.cfg.numLeds ≤ idx.toNat →
      exec (.setLed idx col) s = .next { s with hist := s.hist ++ [.resp 0x01#8 0#64] }) ∧
    (¬(s.cfg.mode = .rgb ∧ col.extractLsb' 0 8 ≠ 0#8) → idx.toNat < s.cfg.numLeds →
      exec (.setLed idx col) s =
        .next { s with leds := s.leds.set idx.toNat col, hist := s.hist ++ [.resp 0x00#8 0#64] })

/-- R153: whatever it answers, and in whatever phase, a SET_LED changes no entry but `IDX`; and after `OK` that entry is the
colour. -/
def Obligations.SetLedWritesOnlyItsEntry : Prop :=
  ∀ (s t : State) (idx : Index) (col : Color), s.Inv → exec (.setLed idx col) s = .next t →
    (∀ j, j ≠ idx.toNat → led t j = led s j) ∧
    (t.hist = s.hist ++ [.resp 0x00#8 0#64] → led t idx.toNat = col) ∧
    (t.hist ≠ s.hist ++ [.resp 0x00#8 0#64] → led t idx.toNat = led s idx.toNat)

/-- R151's corner case: the largest index is never in range. -/
def Obligations.LargestIndexAlwaysFails : Prop :=
  ∀ (s : State) (col : Color), s.phase = .idle →
    exec (.setLed 0xFFFFFF#24 col) s = .next { s with hist := s.hist ++ [.resp 0x01#8 0#64] } ∨
    exec (.setLed 0xFFFFFF#24 col) s = .next { s with hist := s.hist ++ [.resp 0x04#8 0#64] }

/-- R155: FILL in `IDLE`. -/
def Obligations.FillInIdle : Prop :=
  ∀ (s : State) (col : Color), s.phase = .idle →
    (s.cfg.mode = .rgb ∧ col.extractLsb' 0 8 ≠ 0#8 →
      exec (.fill col) s = .next { s with hist := s.hist ++ [.resp 0x04#8 0#64] }) ∧
    (¬(s.cfg.mode = .rgb ∧ col.extractLsb' 0 8 ≠ 0#8) →
      ∃ l : List Color,
        exec (.fill col) s = .next { s with leds := l, hist := s.hist ++ [.resp 0x00#8 0#64] } ∧
        l.length = s.cfg.numLeds ∧ ∀ i, i < s.cfg.numLeds → l[i]? = some col)

/-- R156: the entries a FILL writes are separate: a SET_LED after it changes one and leaves the filled colour in the others. -/
def Obligations.FilledEntriesAreSeparate : Prop :=
  ∀ (s t u : State) (idx : Index) (col col' : Color), s.phase = .idle → idx.toNat < s.cfg.numLeds →
    ¬(s.cfg.mode = .rgb ∧ (col.extractLsb' 0 8 ≠ 0#8 ∨ col'.extractLsb' 0 8 ≠ 0#8)) →
    exec (.fill col) s = .next t → exec (.setLed idx col') t = .next u →
    ∀ i, i < s.cfg.numLeds → led u i = if i = idx.toNat then col' else col

/-- R150: SET_LED and FILL emit one response, and touch nothing else but the LED store, in every phase that takes them (the
fault bit is set if the block is not open, R170). -/
def Obligations.LedWritesAreStateOnly : Prop :=
  ∀ (s t : State) (i : Instr), ((∃ idx col, i = .setLed idx col) ∨ ∃ col, i = .fill col) → exec i s = .next t →
    t.cfg = s.cfg ∧ t.phase = s.phase ∧ t.pendDelay = s.pendDelay ∧ t.inputs = s.inputs ∧
    (∀ a, Memory.read t.txbuf a = Memory.read s.txbuf a) ∧
    (s.phase = .idle → t.fault = s.fault) ∧
    ∃ code, t.hist = s.hist ++ [.resp code 0#64]

/-! ## Frames of the commands -/

/-- The frame of the commands that store no byte: ENCODE, SET_LED, FILL and CLOSE leave every byte of the buffer, the pending
delay, the configuration and what is offered; ENCODE and CLOSE leave the LED store too; only CLOSE changes the phase; and the
fault bit changes only where the block is not open. -/
def Obligations.CommandsThatStoreNoByte : Prop :=
  ∀ (s t : State) (i : Instr), i ≠ .build → (∀ dly, i ≠ .update dly) → exec i s = .next t →
    (∀ a, Memory.read t.txbuf a = Memory.read s.txbuf a) ∧
    t.pendDelay = s.pendDelay ∧ t.cfg = s.cfg ∧ t.inputs = s.inputs ∧
    ((∀ idx col, i ≠ .setLed idx col) → (∀ col, i ≠ .fill col) → t.leds = s.leds) ∧
    (i ≠ .close → t.phase = s.phase) ∧
    (s.phase = .idle → t.fault = s.fault)

/-- The frame of BUILD and UPDATE: every byte whose address is not that of an LED-segment byte reads as before, and the LED store,
the configuration and what is offered are unchanged; BUILD leaves the phase and the pending delay too; the fault bit changes only
where the block is not open, and there no byte changes at all. -/
def Obligations.CommandsThatStoreBytes : Prop :=
  ∀ (s t : State) (i : Instr), (i = .build ∨ ∃ dly, i = .update dly) → exec i s = .next t →
    (∀ a, (∀ l k j, l < s.cfg.numLeds → k < channels s.cfg → j < 8 → slotAddr s.cfg l k j ≠ a) →
      Memory.read t.txbuf a = Memory.read s.txbuf a) ∧
    t.leds = s.leds ∧ t.cfg = s.cfg ∧ t.inputs = s.inputs ∧
    (i = .build → t.phase = s.phase ∧ t.pendDelay = s.pendDelay) ∧
    (s.phase = .idle → t.fault = s.fault) ∧
    (s.phase ≠ .idle → t.txbuf = s.txbuf)

/-! ## 60_exceptions.md -/

/-- R170: in `UNOPENED` and `CLOSED`, every presented word, whatever it decodes to, sets the fault bit and is answered
`NOT_OPEN`, and nothing else changes. -/
def Obligations.NotOpenFault : Prop :=
  ∀ (s : State) (w : Word) (rest : List Input), s.phase = .unopened ∨ s.phase = .closed →
    takeInput s.phase s.inputs = some (.command w, rest) →
    step s = .next { s with inputs := rest, fault := true, hist := s.hist ++ [.resp 0x05#8 0#64] }

/-- R168: in `IDLE`, an `Illegal` word is answered `ILLEGAL`, and nothing else changes. -/
def Obligations.IllegalWordAnswered : Prop :=
  ∀ (s : State) (w : Word) (rest : List Input) (e : Illegal), s.phase = .idle →
    takeInput s.phase s.inputs = some (.command w, rest) → decode w = .error e →
    step s = .next { s with inputs := rest, hist := s.hist ++ [.resp 0x03#8 0#64] }

/-- R173 and R81: every word the block takes makes a step, which answers with the first code that applies: `NOT_OPEN`, `ILLEGAL`,
`MODE_ERROR`, `INDEX_ERROR`, the command's own; exactly one, or none yet for an UPDATE. -/
def Obligations.FirstResultThatApplies : Prop :=
  ∀ (s : State) (w : Word) (rest : List Input), takeInput s.phase s.inputs = some (.command w, rest) →
    ∃ (t : State) (ev : List Event), step s = .next t ∧ t.hist = s.hist ++ ev ∧ respCodes ev = acceptCodes s w

/-- R174: every error is precise: a step that takes a word and answers it with an error code changes nothing but the history,
and the fault bit for `NOT_OPEN`. -/
def Obligations.ErrorsArePrecise : Prop :=
  ∀ (s t : State) (w : Word) (rest : List Input) (code : Byte),
    takeInput s.phase s.inputs = some (.command w, rest) → step s = .next t →
    t.hist = s.hist ++ [.resp code 0#64] → code ≠ 0x00#8 →
    t = { s with
      inputs := rest, hist := s.hist ++ [.resp code 0#64],
      fault := if code = 0x05#8 then true else s.fault }

/-- R176: in a phase that holds commands, a step leaves every presented word with the host, in its order; and a command
executed there has no next state. -/
def Obligations.WordsAreHeldWhileBusy : Prop :=
  ∀ s : State, s.phase ≠ .idle → s.phase ≠ .unopened → s.phase ≠ .closed →
    (∀ i, exec i s = .fault (.held s.phase)) ∧
    (∀ t, step s = .next t →
      t.inputs.filter (fun x => match x with | .command _ => true | _ => false) =
        s.inputs.filter (fun x => match x with | .command _ => true | _ => false))

/-- R22, R176 and R179: a step takes the first offered input that the phase awaits and leaves every other one; if the phase
awaits none of them, the block is stuck. -/
def Obligations.StepTakesTheFirstAwaitedInput : Prop :=
  ∀ s : State,
    (∀ t, step s = .next t →
      ∃ pre inp post, s.inputs = pre ++ inp :: post ∧ t.inputs = pre ++ post ∧ s.phase.takes inp = true ∧
        ∀ x ∈ pre, s.phase.takes x = false) ∧
    ((∀ x ∈ s.inputs, s.phase.takes x = false) ↔ step s = .fault (.stuck s.phase))

/-! ## 70_reset_and_hazards.md, 10_state.md -/

/-- R39, first column: what the reset state holds. Its configuration is free (log 1), and it has nothing offered (log 2, the
model's choice, of which nothing is said here). That the buffer reads `0x00` at or above `TXLEN` too, where the spec has no bytes,
is the model's choice (log 8). -/
def Obligations.ResetStateOfTheSpec : Prop :=
  ∀ c : Config,
    (State.resetOf c).cfg = c ∧ (State.resetOf c).phase = .reset ∧ (State.resetOf c).leds.length = c.numLeds ∧
    (∀ i, i < c.numLeds → led (State.resetOf c) i = 0x00000000#32) ∧
    (∀ a, Memory.read (State.resetOf c).txbuf a = 0x00#8) ∧ (State.resetOf c).fault = false ∧
    (State.resetOf c).pendDelay = 0#32 ∧ (State.resetOf c).hist = [] ∧
    State.reset = State.resetOf State.reset.cfg ∧ State.reset.cfg.headerLen = 64

/-- R190: reset asserted, in any phase. That the buffer reads `0x00` at or above `TXLEN` too, where R190 writes nothing, is the
model's choice (log 8); that the other inputs stay offered is too (log 3). -/
def Obligations.ResetAsserted : Prop :=
  ∀ (s : State) (rest : List Input), takeInput s.phase s.inputs = some (.resetAssert, rest) →
    ∃ t, step s = .next t ∧ t.phase = .reset ∧ t.leds = List.replicate s.cfg.numLeds 0x00000000#32 ∧
      (∀ a, Memory.read t.txbuf a = 0x00#8) ∧ t.fault = false ∧ t.pendDelay = 0#32 ∧ t.hist = [] ∧
      t.cfg = s.cfg ∧ t.inputs = rest

/-- R191: reset released. -/
def Obligations.ResetReleased : Prop :=
  ∀ (s : State) (rest : List Input), takeInput s.phase s.inputs = some (.resetRelease, rest) →
    s.phase = .reset ∧
    step s = .next { s with
      inputs := rest, phase := .opening, hist := s.hist ++ [.openReq (s.cfg.clockKHz * 1000)] }

/-- R192: the open failed. -/
def Obligations.OpenFailed : Prop :=
  ∀ (s : State) (rest : List Input), takeInput s.phase s.inputs = some (.openAck false, rest) →
    s.phase = .opening ∧
    step s = .next { s with inputs := rest, phase := .unopened, hist := s.hist ++ [.resp 0x06#8 0#64] }

/-- R193: the open succeeded: the clear frame of R120 goes out. -/
def Obligations.OpenSucceeded : Prop :=
  ∀ (s : State) (rest : List Input), s.Inv → takeInput s.phase s.inputs = some (.openAck true, rest) →
    s.phase = .opening ∧
    ∃ t, step s = .next t ∧ t.phase = .initSend ∧ t.leds = List.replicate s.cfg.numLeds 0x00000000#32 ∧
      t.hist = s.hist ++ [.txReq (List.replicate s.cfg.headerLen 0x00#8 ++
        List.replicate (s.cfg.numLeds * 8 * channels s.cfg) s.cfg.zeroByte)] ∧
      (∀ a, s.cfg.headerLen ≤ a → a < txLen s.cfg → Memory.read t.txbuf a = s.cfg.zeroByte) ∧
      t.cfg = s.cfg ∧ t.fault = s.fault ∧ t.pendDelay = s.pendDelay ∧ t.inputs = rest

/-- R194: the end of construction: the block is open whether or not the clear frame was sent. -/
def Obligations.EndOfConstruction : Prop :=
  ∀ (s : State) (ok : Bool) (rest : List Input), s.phase = .initSend →
    takeInput s.phase s.inputs = some (.txDone ok, rest) →
    step s = .next { s with
      inputs := rest, phase := .idle,
      hist := s.hist ++ [.resp (if ok = true then 0x00#8 else 0x02#8) 0#64] }

/-- R39, second column, and R195: from reset, three answers construct the block. -/
def Obligations.ConstructionFromReset : Prop :=
  ∀ (c : Config) (ok : Bool) (rest : List Input),
    ∃ t, Sys2Proof.core.run 3
        ((State.resetOf c).setInputs (.resetRelease :: .openAck true :: .txDone ok :: rest)) = .next t ∧
      t.phase = .idle ∧ t.leds = List.replicate c.numLeds 0x00000000#32 ∧ t.fault = false ∧ t.pendDelay = 0#32 ∧
      t.cfg = c ∧ t.inputs = rest ∧
      (∀ a, a < c.headerLen → Memory.read t.txbuf a = 0x00#8) ∧
      (∀ a, c.headerLen ≤ a → a < txLen c → Memory.read t.txbuf a = c.zeroByte) ∧
      t.hist = [.openReq (c.clockKHz * 1000),
        .txReq (List.replicate c.headerLen 0x00#8 ++ List.replicate (c.numLeds * 8 * channels c) c.zeroByte),
        .resp (if ok = true then 0x00#8 else 0x02#8) 0#64]

/-! ## The whole machine -/

/-- The invariant holds at reset. -/
def Obligations.ResetMeetsTheInvariant : Prop := State.reset.Inv ∧ ∀ c : Config, (State.resetOf c).Inv

/-- Every step keeps the invariant: the size of the LED store (R24), no white on an RGB strip (R26), the canonical form of the
buffer with a header of zeros (R29) and nothing at or above `TXLEN`, and the phases of the fault bit and of the delay. -/
def Obligations.StepKeepsTheInvariant : Prop :=
  ∀ s t : State, s.Inv → step s = .next t → t.Inv

/-- R23: from every state, every input the block takes makes a step, to the phase the table gives; the table has a row for an
input exactly in the phases that take it; and nothing leaves `UNOPENED` or `CLOSED` but reset. -/
def Obligations.PhasesFollowTheTable : Prop :=
  (∀ (s : State) (inp : Input) (rest : List Input), takeInput s.phase s.inputs = some (inp, rest) →
    ∃ t, step s = .next t ∧ phaseAfter s inp = some t.phase) ∧
  (∀ (s : State) (inp : Input), s.phase.takes inp = true ↔ phaseAfter s inp ≠ none) ∧
  (∀ s t : State, s.phase = .unopened ∨ s.phase = .closed → step s = .next t →
    t.phase = s.phase ∨ (t.phase = .reset ∧ ∃ rest, takeInput s.phase s.inputs = some (.resetAssert, rest)))

/-- R30: the fault bit is set only by a word taken in `UNOPENED` or `CLOSED`, and cleared only by reset. -/
def Obligations.FaultBitIsSticky : Prop :=
  ∀ (s t : State) (inp : Input) (rest : List Input),
    takeInput s.phase s.inputs = some (inp, rest) → step s = .next t →
    (s.fault = true → t.fault = false → inp = .resetAssert) ∧
    (s.fault = false → t.fault = true → (s.phase = .unopened ∨ s.phase = .closed) ∧ ∃ w, inp = .command w) ∧
    ((s.phase = .unopened ∨ s.phase = .closed) → (∃ w, inp = .command w) → t.fault = true)

/-- R21: no run changes the configuration. -/
def Obligations.ConfigurationIsFixed : Prop :=
  ∀ s t : State, Reaches s t → t.cfg = s.cfg

/-- R33: the history only grows, by at most two events a step, until reset is asserted. -/
def Obligations.HistoryOnlyGrows : Prop :=
  ∀ (s t : State) (inp : Input) (rest : List Input),
    takeInput s.phase s.inputs = some (inp, rest) → step s = .next t → inp ≠ .resetAssert →
    ∃ ev, t.hist = s.hist ++ ev ∧ 1 ≤ ev.length ∧ ev.length ≤ 2

/-- R165, R80, R166, R10, R29 and R112 over whole runs: whatever the agents do, from a block just reset, every event of the
history is legal: every code is a listed one, every error answers no data, every frame has `TXLEN` bytes, a header of zeros and
otherwise only the two constants, and no delay of zero is asked for. -/
def Obligations.EveryEventIsLegal : Prop :=
  (∀ s t : State, s.Inv → s.histLegal → step s = .next t → t.histLegal) ∧
  (∀ (c : Config) (offered : List Input) (t : State), Reaches ((State.resetOf c).setInputs offered) t → t.histLegal)

/-- R63, R178 and R200: every step keeps, and reset has, that while the block waits for an agent the last event is its request to
that agent, and that the frame of a request to the transport is exactly what the buffer holds until it is answered: no torn
frame. -/
def Obligations.OutstandingRequestMatchesTheBuffer : Prop :=
  (∀ s t : State, s.asked → step s = .next t → t.asked) ∧
  (∀ (c : Config) (offered : List Input) (t : State), Reaches ((State.resetOf c).setInputs offered) t → t.asked)

/-- R136 and D33: neither `CLOCK_KHZ` nor `DEVICE_PATH` changes anything but the clock in `OpenReq`: two blocks that differ in
nothing else make the same steps. -/
def Obligations.BusParametersDoNotMatter : Prop :=
  ∀ s s' t : State, SameButBus s s' → step s = .next t → ∃ t', step s' = .next t' ∧ SameButBus t t'
end

