-- ==== Sys2Proof/Laws/Memory.lean ====
section
/-! SUPPORT. The laws of the transmit buffer's memory: a read after a write, the canonical form is kept by every operation, and
memories in that form that read alike are equal. -/

namespace Sys2Proof.Machine

/-- The empty memory, which reset leaves, is in the canonical form. -/
theorem Memory.wf_nil : Memory.wf [] := ⟨List.Pairwise.nil, by simp⟩

theorem Memory.wf_cons_iff {c : Host.Cell} {m : Memory} :
    Memory.wf (c :: m) ↔ (∀ d ∈ m, c.1 < d.1) ∧ c.2 ≠ Memory.unlisted ∧ Memory.wf m := by
  simp only [Memory.wf, List.pairwise_cons, List.mem_cons, forall_eq_or_imp]
  tauto

theorem Memory.read_of_forall_ne {m : Memory} {a : Nat} (h : ∀ c ∈ m, c.1 ≠ a) : Memory.read m a = Memory.unlisted := by
  induction m with
  | nil => rfl
  | cons c m ih =>
    simp only [List.mem_cons, forall_eq_or_imp] at h
    simp only [Memory.read, if_neg h.1]
    exact ih h.2

theorem Memory.mem_cons_imp {a : Nat} {b : Byte} {m : Memory} {c : Host.Cell} (h : c ∈ Memory.cons a b m) :
    c = (a, b) ∨ c ∈ m := by
  unfold Memory.cons at h
  split at h
  · exact .inr h
  · simpa using h

theorem Memory.cons_wf {a : Nat} {b : Byte} {m : Memory} (hm : Memory.wf m) (ha : ∀ d ∈ m, a < d.1) :
    Memory.wf (Memory.cons a b m) := by
  unfold Memory.cons
  split
  · exact hm
  · exact Memory.wf_cons_iff.2 ⟨ha, ‹_›, hm⟩

theorem Memory.read_cons_same {a : Nat} {b : Byte} {m : Memory} (ha : ∀ d ∈ m, d.1 ≠ a) :
    Memory.read (Memory.cons a b m) a = b := by
  unfold Memory.cons
  split
  · rw [Memory.read_of_forall_ne ha]
    exact Eq.symm ‹_›
  · simp [Memory.read]

theorem Memory.read_cons_other {a a' : Nat} {b : Byte} {m : Memory} (h : a' ≠ a) :
    Memory.read (Memory.cons a b m) a' = Memory.read m a' := by
  unfold Memory.cons
  split
  · rfl
  · simp [Memory.read, Ne.symm h]

/-- A write adds no address but its own. -/
theorem Memory.mem_write_imp {m : Memory} {a : Nat} {b : Byte} {c : Host.Cell} (h : c ∈ Memory.write m a b) :
    c.1 = a ∨ c ∈ m := by
  induction m with
  | nil =>
    rcases Memory.mem_cons_imp h with rfl | h
    · exact .inl rfl
    · exact .inr h
  | cons d m ih =>
    unfold Memory.write at h
    split at h
    · rcases Memory.mem_cons_imp h with rfl | h
      · exact .inl rfl
      · exact .inr h
    · split at h
      · rcases Memory.mem_cons_imp h with rfl | h
        · exact .inl rfl
        · exact .inr (List.mem_cons_of_mem _ h)
      · rcases List.mem_cons.1 h with rfl | h
        · exact .inr List.mem_cons_self
        · exact (ih h).imp_right (List.mem_cons_of_mem _)

/-- A write keeps the canonical form. -/
theorem Memory.write_wf {m : Memory} (hm : Memory.wf m) (a : Nat) (b : Byte) : Memory.wf (Memory.write m a b) := by
  induction m with
  | nil => exact Memory.cons_wf Memory.wf_nil (by simp)
  | cons c m ih =>
    obtain ⟨hlt, hne, hm'⟩ := Memory.wf_cons_iff.1 hm
    unfold Memory.write
    split
    · refine Memory.cons_wf hm fun d hd => ?_
      rcases List.mem_cons.1 hd with rfl | hd
      · assumption
      · exact Nat.lt_trans ‹_› (hlt d hd)
    · split
      · subst_vars
        exact Memory.cons_wf hm' hlt
      · refine Memory.wf_cons_iff.2 ⟨fun d hd => ?_, hne, ih hm'⟩
        rcases Memory.mem_write_imp hd with h | h
        · omega
        · exact hlt d h

/-- A read after a write to the same address gives the value written. -/
theorem Memory.read_write_same {m : Memory} (hm : Memory.wf m) (a : Nat) (b : Byte) :
    Memory.read (Memory.write m a b) a = b := by
  induction m with
  | nil => exact Memory.read_cons_same (by simp)
  | cons c m ih =>
    obtain ⟨hlt, -, hm'⟩ := Memory.wf_cons_iff.1 hm
    unfold Memory.write
    split
    · refine Memory.read_cons_same fun d hd => ?_
      rcases List.mem_cons.1 hd with rfl | hd
      · omega
      · have := hlt d hd
        omega
    · split
      · refine Memory.read_cons_same fun d hd => ?_
        have := hlt d hd
        omega
      · rw [Memory.read, if_neg (by omega), ih hm']

/-- A write leaves every other address alone. -/
theorem Memory.read_write_other {a a' : Nat} (h : a' ≠ a) (m : Memory) (b : Byte) :
    Memory.read (Memory.write m a b) a' = Memory.read m a' := by
  induction m with
  | nil => exact Memory.read_cons_other h
  | cons c m ih =>
    unfold Memory.write
    split
    · exact Memory.read_cons_other h
    · split
      · rw [Memory.read_cons_other h, Memory.read, if_neg (by omega)]
      · simp only [Memory.read, ih]

/-- Memories in the canonical form that read alike are equal data. -/
theorem Memory.ext_of_read {m n : Memory} (hm : Memory.wf m) (hn : Memory.wf n)
    (h : ∀ a, Memory.read m a = Memory.read n a) : m = n := by
  induction m generalizing n with
  | nil =>
    cases n with
    | nil => rfl
    | cons d n =>
      have hd := h d.1
      simp only [Memory.read, if_true] at hd
      exact absurd hd.symm (Memory.wf_cons_iff.1 hn).2.1
  | cons c m ih =>
    obtain ⟨hlt, hne, hm'⟩ := Memory.wf_cons_iff.1 hm
    cases n with
    | nil =>
      have hc := h c.1
      simp only [Memory.read, if_true] at hc
      exact absurd hc hne
    | cons d n =>
      obtain ⟨hlt', hne', hn'⟩ := Memory.wf_cons_iff.1 hn
      have hcd : c.1 = d.1 := by
        rcases Nat.lt_trichotomy c.1 d.1 with hl | he | hg
        · have hc := h c.1
          rw [Memory.read, if_pos rfl, Memory.read_of_forall_ne] at hc
          · exact absurd hc hne
          · intro x hx
            rcases List.mem_cons.1 hx with rfl | hx
            · omega
            · have := hlt' x hx
              omega
        · exact he
        · have hd := h d.1
          rw [Memory.read_of_forall_ne, Memory.read, if_pos rfl] at hd
          · exact absurd hd.symm hne'
          · intro x hx
            rcases List.mem_cons.1 hx with rfl | hx
            · omega
            · have := hlt x hx
              omega
      have hc := h c.1
      rw [Memory.read, if_pos rfl, Memory.read, if_pos hcd.symm] at hc
      have hcell : c = d := Prod.ext hcd hc
      subst hcell
      rw [ih hm' hn' fun a => ?_]
      by_cases ha : c.1 = a
      · subst ha
        rw [Memory.read_of_forall_ne fun x hx => by have := hlt x hx; omega,
          Memory.read_of_forall_ne fun x hx => by have := hlt' x hx; omega]
      · have := h a
        rwa [Memory.read, if_neg ha, Memory.read, if_neg ha] at this

/-! ## Many writes -/

@[simp] theorem Memory.writeAll_nil (m : Memory) : Memory.writeAll m [] = m := rfl

@[simp] theorem Memory.writeAll_cons (m : Memory) (w : Host.Cell) (ws : List Host.Cell) :
    Memory.writeAll m (w :: ws) = Memory.writeAll (Memory.write m w.1 w.2) ws := rfl

/-- Writes keep the canonical form. -/
theorem Memory.writeAll_wf {m : Memory} (hm : Memory.wf m) (ws : List Host.Cell) : Memory.wf (Memory.writeAll m ws) := by
  induction ws generalizing m with
  | nil => exact hm
  | cons w ws ih => exact ih (Memory.write_wf hm w.1 w.2)

/-- Writes add no address but their own. -/
theorem Memory.mem_writeAll_imp {m : Memory} {ws : List Host.Cell} {c : Host.Cell} (h : c ∈ Memory.writeAll m ws) :
    (∃ w ∈ ws, w.1 = c.1) ∨ c ∈ m := by
  induction ws generalizing m with
  | nil => exact .inr h
  | cons w ws ih =>
    rcases ih h with ⟨v, hv, he⟩ | h
    · exact .inl ⟨v, List.mem_cons_of_mem _ hv, he⟩
    · rcases Memory.mem_write_imp h with h | h
      · exact .inl ⟨w, List.mem_cons_self, h.symm⟩
      · exact .inr h

/-- Writes leave every address alone that none of them names. -/
theorem Memory.read_writeAll_other {ws : List Host.Cell} {a : Nat} (h : ∀ w ∈ ws, w.1 ≠ a) (m : Memory) :
    Memory.read (Memory.writeAll m ws) a = Memory.read m a := by
  induction ws generalizing m with
  | nil => rfl
  | cons w ws ih =>
    simp only [List.mem_cons, forall_eq_or_imp] at h
    rw [Memory.writeAll_cons, ih h.2, Memory.read_write_other (Ne.symm h.1)]

/-- Where writes that name an address agree on its byte, it reads as that byte afterwards. -/
theorem Memory.read_writeAll_of_mem {ws : List Host.Cell} {a : Nat} {b : Byte} (hmem : (a, b) ∈ ws)
    (hsame : ∀ w ∈ ws, w.1 = a → w.2 = b) {m : Memory} (hm : Memory.wf m) :
    Memory.read (Memory.writeAll m ws) a = b := by
  induction ws generalizing m with
  | nil => simp at hmem
  | cons w ws ih =>
    rw [Memory.writeAll_cons]
    by_cases hlater : (a, b) ∈ ws
    · exact ih hlater (fun v hv => hsame v (List.mem_cons_of_mem _ hv)) (Memory.write_wf hm _ _)
    · have hw : w = (a, b) := by
        rcases List.mem_cons.1 hmem with h | h
        · exact h.symm
        · exact absurd h hlater
      subst hw
      rw [Memory.read_writeAll_other, Memory.read_write_same hm]
      intro v hv hva
      have := hsame v (List.mem_cons_of_mem _ hv) hva
      exact hlater (by rw [← hva, ← this]; exact hv)

end Sys2Proof.Machine
end

