-- ==== Sys2Proof/Laws/State.lean ====
section
/-! SUPPORT. One lemma per field per update of the state, so that no later proof unfolds an update. -/

namespace Sys2Proof.Machine

section setters
variable (s : State) (p : Phase) (l : List Color) (m : Memory) (b : Bool) (d : Micros) (h : List Event) (is : List Input)

@[simp] theorem State.setPhase_cfg : (s.setPhase p).cfg = s.cfg := rfl
@[simp] theorem State.setPhase_phase : (s.setPhase p).phase = p := rfl
@[simp] theorem State.setPhase_leds : (s.setPhase p).leds = s.leds := rfl
@[simp] theorem State.setPhase_txbuf : (s.setPhase p).txbuf = s.txbuf := rfl
@[simp] theorem State.setPhase_fault : (s.setPhase p).fault = s.fault := rfl
@[simp] theorem State.setPhase_pendDelay : (s.setPhase p).pendDelay = s.pendDelay := rfl
@[simp] theorem State.setPhase_hist : (s.setPhase p).hist = s.hist := rfl
@[simp] theorem State.setPhase_inputs : (s.setPhase p).inputs = s.inputs := rfl

@[simp] theorem State.setLeds_cfg : (s.setLeds l).cfg = s.cfg := rfl
@[simp] theorem State.setLeds_phase : (s.setLeds l).phase = s.phase := rfl
@[simp] theorem State.setLeds_leds : (s.setLeds l).leds = l := rfl
@[simp] theorem State.setLeds_txbuf : (s.setLeds l).txbuf = s.txbuf := rfl
@[simp] theorem State.setLeds_fault : (s.setLeds l).fault = s.fault := rfl
@[simp] theorem State.setLeds_pendDelay : (s.setLeds l).pendDelay = s.pendDelay := rfl
@[simp] theorem State.setLeds_hist : (s.setLeds l).hist = s.hist := rfl
@[simp] theorem State.setLeds_inputs : (s.setLeds l).inputs = s.inputs := rfl

@[simp] theorem State.setTxbuf_cfg : (s.setTxbuf m).cfg = s.cfg := rfl
@[simp] theorem State.setTxbuf_phase : (s.setTxbuf m).phase = s.phase := rfl
@[simp] theorem State.setTxbuf_leds : (s.setTxbuf m).leds = s.leds := rfl
@[simp] theorem State.setTxbuf_txbuf : (s.setTxbuf m).txbuf = m := rfl
@[simp] theorem State.setTxbuf_fault : (s.setTxbuf m).fault = s.fault := rfl
@[simp] theorem State.setTxbuf_pendDelay : (s.setTxbuf m).pendDelay = s.pendDelay := rfl
@[simp] theorem State.setTxbuf_hist : (s.setTxbuf m).hist = s.hist := rfl
@[simp] theorem State.setTxbuf_inputs : (s.setTxbuf m).inputs = s.inputs := rfl

@[simp] theorem State.setFault_cfg : (s.setFault b).cfg = s.cfg := rfl
@[simp] theorem State.setFault_phase : (s.setFault b).phase = s.phase := rfl
@[simp] theorem State.setFault_leds : (s.setFault b).leds = s.leds := rfl
@[simp] theorem State.setFault_txbuf : (s.setFault b).txbuf = s.txbuf := rfl
@[simp] theorem State.setFault_fault : (s.setFault b).fault = b := rfl
@[simp] theorem State.setFault_pendDelay : (s.setFault b).pendDelay = s.pendDelay := rfl
@[simp] theorem State.setFault_hist : (s.setFault b).hist = s.hist := rfl
@[simp] theorem State.setFault_inputs : (s.setFault b).inputs = s.inputs := rfl

@[simp] theorem State.setPendDelay_cfg : (s.setPendDelay d).cfg = s.cfg := rfl
@[simp] theorem State.setPendDelay_phase : (s.setPendDelay d).phase = s.phase := rfl
@[simp] theorem State.setPendDelay_leds : (s.setPendDelay d).leds = s.leds := rfl
@[simp] theorem State.setPendDelay_txbuf : (s.setPendDelay d).txbuf = s.txbuf := rfl
@[simp] theorem State.setPendDelay_fault : (s.setPendDelay d).fault = s.fault := rfl
@[simp] theorem State.setPendDelay_pendDelay : (s.setPendDelay d).pendDelay = d := rfl
@[simp] theorem State.setPendDelay_hist : (s.setPendDelay d).hist = s.hist := rfl
@[simp] theorem State.setPendDelay_inputs : (s.setPendDelay d).inputs = s.inputs := rfl

@[simp] theorem State.setHist_cfg : (s.setHist h).cfg = s.cfg := rfl
@[simp] theorem State.setHist_phase : (s.setHist h).phase = s.phase := rfl
@[simp] theorem State.setHist_leds : (s.setHist h).leds = s.leds := rfl
@[simp] theorem State.setHist_txbuf : (s.setHist h).txbuf = s.txbuf := rfl
@[simp] theorem State.setHist_fault : (s.setHist h).fault = s.fault := rfl
@[simp] theorem State.setHist_pendDelay : (s.setHist h).pendDelay = s.pendDelay := rfl
@[simp] theorem State.setHist_hist : (s.setHist h).hist = h := rfl
@[simp] theorem State.setHist_inputs : (s.setHist h).inputs = s.inputs := rfl

@[simp] theorem State.setInputs_cfg : (s.setInputs is).cfg = s.cfg := rfl
@[simp] theorem State.setInputs_phase : (s.setInputs is).phase = s.phase := rfl
@[simp] theorem State.setInputs_leds : (s.setInputs is).leds = s.leds := rfl
@[simp] theorem State.setInputs_txbuf : (s.setInputs is).txbuf = s.txbuf := rfl
@[simp] theorem State.setInputs_fault : (s.setInputs is).fault = s.fault := rfl
@[simp] theorem State.setInputs_pendDelay : (s.setInputs is).pendDelay = s.pendDelay := rfl
@[simp] theorem State.setInputs_hist : (s.setInputs is).hist = s.hist := rfl
@[simp] theorem State.setInputs_inputs : (s.setInputs is).inputs = is := rfl

end setters

section operations
variable (s : State) (e : Event) (code : Byte) (data : Word) (c : Color) (i : Nat)

@[simp] theorem State.emit_cfg : (s.emit e).cfg = s.cfg := rfl
@[simp] theorem State.emit_phase : (s.emit e).phase = s.phase := rfl
@[simp] theorem State.emit_leds : (s.emit e).leds = s.leds := rfl
@[simp] theorem State.emit_txbuf : (s.emit e).txbuf = s.txbuf := rfl
@[simp] theorem State.emit_fault : (s.emit e).fault = s.fault := rfl
@[simp] theorem State.emit_pendDelay : (s.emit e).pendDelay = s.pendDelay := rfl
@[simp] theorem State.emit_hist : (s.emit e).hist = s.hist ++ [e] := rfl
@[simp] theorem State.emit_inputs : (s.emit e).inputs = s.inputs := rfl

/-- A response is one event. -/
theorem State.respond_eq : s.respond code data = s.emit (.resp code data) := rfl

@[simp] theorem State.respond_cfg : (s.respond code data).cfg = s.cfg := rfl
@[simp] theorem State.respond_phase : (s.respond code data).phase = s.phase := rfl
@[simp] theorem State.respond_leds : (s.respond code data).leds = s.leds := rfl
@[simp] theorem State.respond_txbuf : (s.respond code data).txbuf = s.txbuf := rfl
@[simp] theorem State.respond_fault : (s.respond code data).fault = s.fault := rfl
@[simp] theorem State.respond_pendDelay : (s.respond code data).pendDelay = s.pendDelay := rfl
@[simp] theorem State.respond_hist : (s.respond code data).hist = s.hist ++ [.resp code data] := rfl
@[simp] theorem State.respond_inputs : (s.respond code data).inputs = s.inputs := rfl

@[simp] theorem State.setLed_cfg : (s.setLed i c).cfg = s.cfg := rfl
@[simp] theorem State.setLed_phase : (s.setLed i c).phase = s.phase := rfl
@[simp] theorem State.setLed_leds : (s.setLed i c).leds = s.leds.set i c := rfl
@[simp] theorem State.setLed_txbuf : (s.setLed i c).txbuf = s.txbuf := rfl
@[simp] theorem State.setLed_fault : (s.setLed i c).fault = s.fault := rfl
@[simp] theorem State.setLed_pendDelay : (s.setLed i c).pendDelay = s.pendDelay := rfl
@[simp] theorem State.setLed_hist : (s.setLed i c).hist = s.hist := rfl
@[simp] theorem State.setLed_inputs : (s.setLed i c).inputs = s.inputs := rfl

@[simp] theorem State.fillLeds_cfg : (s.fillLeds c).cfg = s.cfg := rfl
@[simp] theorem State.fillLeds_phase : (s.fillLeds c).phase = s.phase := rfl
@[simp] theorem State.fillLeds_leds : (s.fillLeds c).leds = List.replicate s.cfg.numLeds c := rfl
@[simp] theorem State.fillLeds_txbuf : (s.fillLeds c).txbuf = s.txbuf := rfl
@[simp] theorem State.fillLeds_fault : (s.fillLeds c).fault = s.fault := rfl
@[simp] theorem State.fillLeds_pendDelay : (s.fillLeds c).pendDelay = s.pendDelay := rfl
@[simp] theorem State.fillLeds_hist : (s.fillLeds c).hist = s.hist := rfl
@[simp] theorem State.fillLeds_inputs : (s.fillLeds c).inputs = s.inputs := rfl

@[simp] theorem State.frame_cfg : s.frame.cfg = s.cfg := rfl
@[simp] theorem State.frame_phase : s.frame.phase = s.phase := rfl
@[simp] theorem State.frame_leds : s.frame.leds = s.leds := rfl
@[simp] theorem State.frame_txbuf : s.frame.txbuf = Memory.writeAll s.txbuf (frameWrites s) := rfl
@[simp] theorem State.frame_fault : s.frame.fault = s.fault := rfl
@[simp] theorem State.frame_pendDelay : s.frame.pendDelay = s.pendDelay := rfl
@[simp] theorem State.frame_hist : s.frame.hist = s.hist := rfl
@[simp] theorem State.frame_inputs : s.frame.inputs = s.inputs := rfl

@[simp] theorem State.emitTxReq_cfg : s.emitTxReq.cfg = s.cfg := rfl
@[simp] theorem State.emitTxReq_phase : s.emitTxReq.phase = s.phase := rfl
@[simp] theorem State.emitTxReq_leds : s.emitTxReq.leds = s.leds := rfl
@[simp] theorem State.emitTxReq_txbuf : s.emitTxReq.txbuf = s.txbuf := rfl
@[simp] theorem State.emitTxReq_fault : s.emitTxReq.fault = s.fault := rfl
@[simp] theorem State.emitTxReq_pendDelay : s.emitTxReq.pendDelay = s.pendDelay := rfl
@[simp] theorem State.emitTxReq_hist : s.emitTxReq.hist = s.hist ++ [.txReq (txFrame s)] := rfl
@[simp] theorem State.emitTxReq_inputs : s.emitTxReq.inputs = s.inputs := rfl

@[simp] theorem State.raiseNotOpen_cfg : s.raiseNotOpen.cfg = s.cfg := rfl
@[simp] theorem State.raiseNotOpen_phase : s.raiseNotOpen.phase = s.phase := rfl
@[simp] theorem State.raiseNotOpen_leds : s.raiseNotOpen.leds = s.leds := rfl
@[simp] theorem State.raiseNotOpen_txbuf : s.raiseNotOpen.txbuf = s.txbuf := rfl
@[simp] theorem State.raiseNotOpen_fault : s.raiseNotOpen.fault = true := rfl
@[simp] theorem State.raiseNotOpen_pendDelay : s.raiseNotOpen.pendDelay = s.pendDelay := rfl
@[simp] theorem State.raiseNotOpen_hist : s.raiseNotOpen.hist = s.hist ++ [.resp codeNotOpen 0#64] := rfl
@[simp] theorem State.raiseNotOpen_inputs : s.raiseNotOpen.inputs = s.inputs := rfl

@[simp] theorem State.finish_cfg : (s.finish code).cfg = s.cfg := rfl
@[simp] theorem State.finish_phase : (s.finish code).phase = .idle := rfl
@[simp] theorem State.finish_leds : (s.finish code).leds = s.leds := rfl
@[simp] theorem State.finish_txbuf : (s.finish code).txbuf = s.txbuf := rfl
@[simp] theorem State.finish_fault : (s.finish code).fault = s.fault := rfl
@[simp] theorem State.finish_pendDelay : (s.finish code).pendDelay = s.pendDelay := rfl
@[simp] theorem State.finish_hist : (s.finish code).hist = s.hist ++ [.resp code 0#64] := rfl
@[simp] theorem State.finish_inputs : (s.finish code).inputs = s.inputs := rfl

end operations

section reset
variable (s : State) (c : Config)

@[simp] theorem State.resetOf_cfg : (State.resetOf c).cfg = c := rfl
@[simp] theorem State.resetOf_phase : (State.resetOf c).phase = .reset := rfl
@[simp] theorem State.resetOf_leds : (State.resetOf c).leds = List.replicate c.numLeds 0#32 := rfl
@[simp] theorem State.resetOf_txbuf : (State.resetOf c).txbuf = [] := rfl
@[simp] theorem State.resetOf_fault : (State.resetOf c).fault = false := rfl
@[simp] theorem State.resetOf_pendDelay : (State.resetOf c).pendDelay = 0#32 := rfl
@[simp] theorem State.resetOf_hist : (State.resetOf c).hist = [] := rfl
@[simp] theorem State.resetOf_inputs : (State.resetOf c).inputs = [] := rfl

/-- Reset keeps the configuration and what is offered, and nothing else. -/
theorem State.assertReset_eq : s.assertReset = { State.resetOf s.cfg with inputs := s.inputs } := rfl

end reset

end Sys2Proof.Machine
end

