-- ==== Sys2Proof/Laws/Frame.lean ====
section
/-! SUPPORT. The laws of the encoder, of the address arithmetic, and of the frame function: which cells it writes, and what the
buffer reads as afterwards. -/

namespace Sys2Proof

/-- What `ConfigOK` says of a configuration (R197). -/
theorem Config.ok_iff (c : Config) :
    1 ≤ c.numLeds ∧ c.numLeds ≤ 2 ^ 24 - 1 ∧ 1 ≤ c.clockKHz ∧ c.oneByte ≠ c.zeroByte := by
  have h := c.ok
  simp only [Params.ok, Bool.and_eq_true] at h
  exact ⟨of_decide_eq_true h.1.1.1, of_decide_eq_true h.1.1.2, of_decide_eq_true h.1.2, of_decide_eq_true h.2⟩

namespace Machine

/-! ## The encoder -/

@[simp] theorem enc_length (c : Config) (v : Byte) : (enc c v).length = 8 := by simp [enc]

theorem enc_getD (c : Config) (v : Byte) {j : Nat} (h : j < 8) (d : Byte) :
    (enc c v).getD j d = bitByte c (v.getLsbD (7 - j)) := by
  simp [enc, h]

theorem bitByte_eq (c : Config) (b : Bool) : bitByte c b = if b = true then c.oneByte else c.zeroByte := rfl

theorem bitByte_cases (c : Config) (b : Bool) : bitByte c b = c.oneByte ∨ bitByte c b = c.zeroByte := by
  cases b
  · exact .inr rfl
  · exact .inl rfl

/-! ## Addresses -/

theorem channels_cases (c : Config) : channels c = 3 ∨ channels c = 4 := by
  unfold channels
  cases c.mode
  · exact .inl rfl
  · exact .inr rfl

theorem header_le_slotAddr (c : Config) (i k j : Nat) : c.headerLen ≤ slotAddr c i k j := by
  unfold slotAddr
  omega

/-- A slot's address as the header, and then a number below `NUM_LEDS * 8 * CH`. -/
theorem slotAddr_lt_txLen (c : Config) {i k j : Nat} (hi : i < c.numLeds) (hk : k < channels c) (hj : j < 8) :
    slotAddr c i k j < txLen c := by
  have hle : (i + 1) * channels c ≤ c.numLeds * channels c := Nat.mul_le_mul_right _ hi
  have hcomm : c.numLeds * 8 * channels c = c.numLeds * channels c * 8 := Nat.mul_right_comm _ _ _
  rw [Nat.succ_mul] at hle
  unfold slotAddr txLen
  omega

/-- Slots do not share addresses. -/
theorem slotAddr_split (c : Config) {i k j i' k' j' : Nat} (hk : k < channels c) (hj : j < 8) (hk' : k' < channels c)
    (hj' : j' < 8) (h : slotAddr c i k j = slotAddr c i' k' j') : i = i' ∧ k = k' ∧ j = j' := by
  unfold slotAddr at h
  have hjj : j = j' := by omega
  have hslot : i * channels c + k = i' * channels c + k' := by omega
  have hdiv := congrArg (· / channels c) hslot
  have hmod := congrArg (· % channels c) hslot
  have hpos : 0 < channels c := by omega
  simp only [Nat.mul_comm _ (channels c), Nat.mul_add_div hpos, Nat.mul_add_mod, Nat.div_eq_of_lt hk,
    Nat.div_eq_of_lt hk', Nat.mod_eq_of_lt hk, Nat.mod_eq_of_lt hk'] at hdiv hmod
  exact ⟨by omega, hmod, hjj⟩

/-! ## The writes of the frame function -/

/-- The cells that `Frame(led)` writes (R110). -/
theorem mem_frameWrites (s : State) (w : Host.Cell) :
    w ∈ frameWrites s ↔ ∃ i k j, i < s.cfg.numLeds ∧ k < channels s.cfg ∧ j < 8 ∧ slotAddr s.cfg i k j = w.1 ∧
      bitByte s.cfg ((chan (led s i) k).getLsbD (7 - j)) = w.2 := by
  simp only [frameWrites, slotWrites, List.mem_flatMap, List.mem_map, List.mem_range]
  constructor
  · rintro ⟨i, hi, k, hk, j, hj, rfl⟩
    exact ⟨i, k, j, hi, hk, hj, rfl, (enc_getD _ _ hj _).symm⟩
  · rintro ⟨i, k, j, hi, hk, hj, ha, hb⟩
    exact ⟨i, hi, k, hk, j, hj, Prod.ext ha ((enc_getD _ _ hj _).trans hb)⟩

/-- The frame function keeps the canonical form of the buffer. -/
theorem State.frame_wf {s : State} (h : Memory.wf s.txbuf) : Memory.wf s.frame.txbuf := Memory.writeAll_wf h _

/-- What one LED-segment byte reads as after the frame function. -/
theorem State.read_frame_slot {s : State} (h : Memory.wf s.txbuf) {i k j : Nat} (hi : i < s.cfg.numLeds)
    (hk : k < channels s.cfg) (hj : j < 8) :
    Memory.read s.frame.txbuf (slotAddr s.cfg i k j) = bitByte s.cfg ((chan (led s i) k).getLsbD (7 - j)) := by
  refine Memory.read_writeAll_of_mem ((mem_frameWrites s _).2 ⟨i, k, j, hi, hk, hj, rfl, rfl⟩) ?_ h
  intro w hw hwa
  obtain ⟨i', k', j', -, hk', hj', ha, hb⟩ := (mem_frameWrites s w).1 hw
  obtain ⟨rfl, rfl, rfl⟩ := slotAddr_split s.cfg hk' hj' hk hj (ha.trans hwa)
  exact hb.symm

/-- The frame function leaves every address that is no LED-segment byte's. -/
theorem State.read_frame_other (s : State) {a : Nat}
    (h : ∀ i k j, i < s.cfg.numLeds → k < channels s.cfg → j < 8 → slotAddr s.cfg i k j ≠ a) :
    Memory.read s.frame.txbuf a = Memory.read s.txbuf a := by
  refine Memory.read_writeAll_other (fun w hw hwa => ?_) _
  obtain ⟨i, k, j, hi, hk, hj, ha, -⟩ := (mem_frameWrites s w).1 hw
  exact h i k j hi hk hj (ha.trans hwa)

/-- The frame function writes no address outside the LED segments. -/
theorem State.mem_frame_range {s : State} {c : Host.Cell} (h : c ∈ s.frame.txbuf) :
    (s.cfg.headerLen ≤ c.1 ∧ c.1 < txLen s.cfg) ∨ c ∈ s.txbuf := by
  rcases Memory.mem_writeAll_imp h with ⟨w, hw, hwc⟩ | h
  · obtain ⟨i, k, j, hi, hk, hj, ha, -⟩ := (mem_frameWrites s w).1 hw
    rw [← hwc, ← ha]
    exact .inl ⟨header_le_slotAddr .., slotAddr_lt_txLen _ hi hk hj⟩
  · exact .inr h

@[simp] theorem txFrame_length (s : State) : (txFrame s).length = txLen s.cfg := by simp [txFrame]

theorem txFrame_getElem? (s : State) {a : Nat} (h : a < txLen s.cfg) :
    (txFrame s)[a]? = some (Memory.read s.txbuf a) := by
  simp [txFrame, h]

end Machine

end Sys2Proof
end

