-- ==== Sys2Proof/Laws/PerInstr.lean ====
section
/-! SUPPORT. Laws said once for each command. `WordFields`: the fields of a command's word are those of the table of
30_encoding.md R72. -/

namespace Sys2Proof.Laws.WordFields

/-- The fields that R72 gives a command: its `OP`, its `IDX`, and its bits 31:0. -/
def fieldsOf : Instr → Byte × Index × Color
  | .encode v => (0x01#8, 0#24, v.setWidth 32)
  | .setLed idx col => (0x02#8, idx, col)
  | .fill col => (0x03#8, 0#24, col)
  | .build => (0x04#8, 0#24, 0#32)
  | .update dly => (0x05#8, 0#24, dly)
  | .close => (0x06#8, 0#24, 0#32)

/-- The fields of the command's word. -/
def Statement (i : Instr) : Prop :=
  opField (encode i) = (fieldsOf i).1 ∧ idxField (encode i) = (fieldsOf i).2.1 ∧ colField (encode i) = (fieldsOf i).2.2

/-- The opcode byte of an encoded word is the one given. -/
theorem opField_cmd64 (op : Byte) (idx : Index) (col : Color) : opField (cmd64 op idx col) = op := by
  apply BitVec.eq_of_getLsbD_eq
  intro i hi
  simp only [opField, cmd64, BitVec.getLsbD_extractLsb', BitVec.getLsbD_append, hi, decide_true, Bool.true_and]
  rw [if_neg (by omega), if_neg (by omega)]
  congr 1
  omega

/-- The index field of an encoded word is the one given. -/
theorem idxField_cmd64 (op : Byte) (idx : Index) (col : Color) : idxField (cmd64 op idx col) = idx := by
  apply BitVec.eq_of_getLsbD_eq
  intro i hi
  simp only [idxField, cmd64, BitVec.getLsbD_extractLsb', BitVec.getLsbD_append, hi, decide_true, Bool.true_and]
  rw [if_neg (by omega), if_pos (by omega)]
  congr 1
  omega

/-- The colour field of an encoded word is the one given. -/
theorem colField_cmd64 (op : Byte) (idx : Index) (col : Color) : colField (cmd64 op idx col) = col := by
  apply BitVec.eq_of_getLsbD_eq
  intro i hi
  simp only [colField, cmd64, BitVec.getLsbD_extractLsb', BitVec.getLsbD_append, hi, decide_true, Bool.true_and]
  rw [if_pos (by omega)]
  congr 1
  omega

/-- The fields of a word put together from them. -/
theorem fields_cmd64 (op : Byte) (idx : Index) (col : Color) :
    opField (cmd64 op idx col) = op ∧ idxField (cmd64 op idx col) = idx ∧ colField (cmd64 op idx col) = col :=
  ⟨opField_cmd64 .., idxField_cmd64 .., colField_cmd64 ..⟩

theorem encode (v : Byte) : Statement (.encode v) := by
  obtain ⟨h1, h2, h3⟩ := fields_cmd64 0x01#8 0#24 (0#24 ++ v : BitVec (24 + 8))
  refine ⟨h1, h2, h3.trans ?_⟩
  show (0#24 ++ v : BitVec (24 + 8)) = v.setWidth 32
  have hv := v.isLt
  apply BitVec.eq_of_toNat_eq
  rw [BitVec.toNat_append]
  simp only [BitVec.toNat_setWidth, BitVec.toNat_ofNat, Nat.zero_mod, Nat.zero_shiftLeft, Nat.zero_or]
  omega

theorem setLed (idx : Index) (col : Color) : Statement (.setLed idx col) := fields_cmd64 0x02#8 idx col

theorem fill (col : Color) : Statement (.fill col) := fields_cmd64 0x03#8 0#24 col

theorem build : Statement .build := fields_cmd64 0x04#8 0#24 0#32

theorem update (dly : Micros) : Statement (.update dly) := fields_cmd64 0x05#8 0#24 dly

theorem close : Statement .close := fields_cmd64 0x06#8 0#24 0#32

end Sys2Proof.Laws.WordFields
end

