-- ==== Sys2Proof/Laws/Step.lean ====
section
/-! SUPPORT. What a step can do, said once: the acceptance of a command by the phase, the choice of an input, and the inversion of
`step`. Later proofs cite these and do not unfold them. -/

namespace Sys2Proof.Machine

/-! ## Acceptance -/

theorem whenAccepted_idle {s : State} (h : s.phase = .idle) (f : State → State) : whenAccepted s f = .next (f s) := by
  simp only [whenAccepted, h]

theorem whenAccepted_notOpen {s : State} (h : s.phase = .unopened ∨ s.phase = .closed) (f : State → State) :
    whenAccepted s f = .next s.raiseNotOpen := by
  rcases h with h | h <;> simp only [whenAccepted, h]

theorem whenAccepted_held {s : State} (hi : s.phase ≠ .idle) (hu : s.phase ≠ .unopened) (hc : s.phase ≠ .closed)
    (f : State → State) : whenAccepted s f = .fault (.held s.phase) := by
  unfold whenAccepted
  split <;> simp_all

/-- If an accepted command makes a step, it had its effect in `IDLE`, or it raised `NOT_OPEN`. -/
theorem whenAccepted_next {s t : State} {f : State → State} (h : whenAccepted s f = .next t) :
    (s.phase = .idle ∧ t = f s) ∨ ((s.phase = .unopened ∨ s.phase = .closed) ∧ t = s.raiseNotOpen) := by
  by_cases hi : s.phase = .idle
  · rw [whenAccepted_idle hi] at h
    cases h
    exact .inl ⟨hi, rfl⟩
  · by_cases hn : s.phase = .unopened ∨ s.phase = .closed
    · rw [whenAccepted_notOpen hn] at h
      cases h
      exact .inr ⟨hn, rfl⟩
    · rw [not_or] at hn
      rw [whenAccepted_held hi hn.1 hn.2] at h
      cases h

/-- An accepted command is never refused. -/
theorem whenAccepted_not_refused (s : State) (f : State → State) (r : Refusal) : whenAccepted s f ≠ .refused r := by
  unfold whenAccepted
  split <;> simp

/-- Every command's meaning is an effect under `whenAccepted`. -/
theorem exec_accepted (i : Instr) : ∃ f : State → State, ∀ s, exec i s = whenAccepted s f := by
  cases i with
  | encode v => exact ⟨_, fun _ => rfl⟩
  | setLed idx col => exact ⟨_, fun _ => rfl⟩
  | fill col => exact ⟨_, fun _ => rfl⟩
  | build => exact ⟨_, fun _ => rfl⟩
  | update dly => exact ⟨_, fun _ => rfl⟩
  | close => exact ⟨_, fun _ => rfl⟩

/-! ## The choice of an input -/

/-- The taken input is the first that the phase takes. -/
theorem takeInput_some {p : Phase} {is : List Input} {i : Input} {rest : List Input}
    (h : takeInput p is = some (i, rest)) :
    p.takes i = true ∧ ∃ pre post, is = pre ++ i :: post ∧ rest = pre ++ post ∧ ∀ x ∈ pre, p.takes x = false := by
  induction is generalizing rest with
  | nil => simp [takeInput] at h
  | cons j js ih =>
    unfold takeInput at h
    split at h
    · simp only [Option.some.injEq, Prod.mk.injEq] at h
      obtain ⟨rfl, rfl⟩ := h
      exact ⟨‹_›, [], js, rfl, rfl, by simp⟩
    · split at h
      · rename_i i' js' hrec
        simp only [Option.some.injEq, Prod.mk.injEq] at h
        obtain ⟨rfl, rfl⟩ := h
        obtain ⟨ht, pre, post, rfl, rfl, hpre⟩ := ih hrec
        refine ⟨ht, j :: pre, post, rfl, rfl, ?_⟩
        intro x hx
        rcases List.mem_cons.1 hx with rfl | hx
        · exact Bool.eq_false_of_not_eq_true ‹_›
        · exact hpre x hx
      · simp at h

/-- Nothing is taken exactly if the phase takes nothing that is offered. -/
theorem takeInput_none {p : Phase} {is : List Input} : takeInput p is = none ↔ ∀ x ∈ is, p.takes x = false := by
  induction is with
  | nil => simp [takeInput]
  | cons j js ih =>
    unfold takeInput
    by_cases hj : p.takes j = true
    · simp [hj]
    · cases hrec : takeInput p js with
      | none => simpa [hj] using ih.1 hrec
      | some x =>
        have : ¬ ∀ y ∈ js, p.takes y = false := fun hall => by simp [ih.2 hall] at hrec
        simp only [hj]
        simpa [hj] using this

/-- The first input, if the phase takes it. -/
theorem takeInput_head {p : Phase} {i : Input} {is : List Input} (h : p.takes i = true) :
    takeInput p (i :: is) = some (i, is) := by
  simp [takeInput, h]

/-! ## Inversion of the step -/

theorem step_of_take {s : State} {inp : Input} {rest : List Input} (h : takeInput s.phase s.inputs = some (inp, rest)) :
    step s = runInput inp (s.setInputs rest) := by
  simp only [step, h]

/-- A step takes one input, and does what that input does. -/
theorem step_next {s t : State} (h : step s = .next t) :
    ∃ inp rest, takeInput s.phase s.inputs = some (inp, rest) ∧ runInput inp (s.setInputs rest) = .next t := by
  cases ht : takeInput s.phase s.inputs with
  | none =>
    simp only [step, ht] at h
    cases h
  | some p =>
    obtain ⟨inp, rest⟩ := p
    rw [step_of_take ht] at h
    exact ⟨inp, rest, rfl, h⟩

end Sys2Proof.Machine
end

