-- ==== Sys2Proof/Tests/Slice0.lean ====
section
/-! SUPPORT. Tests. Expected values are from the spec: 30_encoding.md R85 and the vectors of 95_test_vectors.md, named in each
test's comment, with that file's example constants `0xF8` and `0xC0`; and, for every statement with hypotheses, a witness that
meets them. -/

namespace Sys2Proof.Tests

open Sys2Proof.Machine

/-! ## Small blocks -/

/-- Parameters with the example constants of 95_test_vectors.md. -/
def params (m : Mode) (n : Nat) : Params where
  mode := m
  numLeds := n
  clockKHz := 6400
  devicePath := ""
  oneByte := 0xF8#8
  zeroByte := 0xC0#8

def rgb1 : Config := ⟨params .rgb 1, by decide⟩
def rgb2 : Config := ⟨params .rgb 2, by decide⟩
def rgb3 : Config := ⟨params .rgb 3, by decide⟩
def rgbw1 : Config := ⟨params .rgbw 1, by decide⟩
def rgbw3 : Config := ⟨params .rgbw 3, by decide⟩
/-- The largest strip, whose frame is longer than `2^29` bytes (log 7). -/
def rgbwMax : Config := ⟨params .rgbw 16777215, by decide⟩

/-- A block in a phase, otherwise as after reset, with some inputs offered. -/
def blockIn (c : Config) (p : Phase) (is : List Input) : State := ((State.resetOf c).setPhase p).setInputs is

/-- The next state, if there is one. -/
def after (o : Host.Outcome State Fault Refusal) : Option State :=
  match o with
  | .next s => some s
  | .fault _ => none
  | .refused _ => none

/-- What a word appends to the history of a fresh block in a phase. -/
def answers (c : Config) (p : Phase) (w : Word) : Option (List Event) :=
  (after (step (blockIn c p [.command w]))).map State.hist

/-- Some bytes of the buffer from an address on. -/
def bytesAt (s : State) (a n : Nat) : List Byte := (List.range n).map fun i => Memory.read s.txbuf (a + i)

/-- Such a block meets the invariant, unless it claims that a delay of zero is running. -/
theorem blockIn_inv (c : Config) (p : Phase) (is : List Input) (h : p ≠ .delaying) : (blockIn c p is).Inv where
  leds_length := List.length_replicate
  rgb_white := fun _ x hx => by rw [(List.mem_replicate.mp hx).2]; decide
  txbuf_wf := Memory.wf_nil
  txbuf_range := fun x hx => by simp [blockIn, State.resetOf, State.setPhase, State.setInputs] at hx
  fault_phase := fun h => by simp [blockIn, State.resetOf, State.setPhase, State.setInputs] at h
  delaying := fun hp => (h hp).elim

/-! ## Well-formedness: one ill-formed line for each check (R83) -/

theorem test_refuses_encode_256 : (Asm.encode 256).wellFormed = false := by decide
theorem test_refuses_index : (Asm.setLed 16777216 0 0 0 0).wellFormed = false := by decide
theorem test_refuses_red : (Asm.setLed 0 256 0 0 0).wellFormed = false := by decide
theorem test_refuses_green : (Asm.fill 0 256 0 0).wellFormed = false := by decide
theorem test_refuses_blue : (Asm.fillRgb 0 0 256).wellFormed = false := by decide
theorem test_refuses_white : (Asm.fill 0 0 0 256).wellFormed = false := by decide
theorem test_refuses_rgb_index : (Asm.setLedRgb 16777216 0 0 0).wellFormed = false := by decide
theorem test_refuses_delay : (Asm.update 4294967296).wellFormed = false := by decide
theorem test_accepts_largest : (Asm.setLed 16777215 255 255 255 255).wellFormed = true := by decide

/-! ## Decoding: words from the table of R85 and the pattern strings of opcode_table.json -/

theorem test_decode_encode : decode 0x01000000000000A5#64 = .ok (.encode 0xA5#8) := by decide
theorem test_decode_setLed : decode 0x0200000101020300#64 = .ok (.setLed 1#24 0x01020300#32) := by decide
theorem test_decode_setLed_high : decode 0x0200FFFF00000009#64 = .ok (.setLed 0xFFFF#24 9#32) := by decide
theorem test_decode_fill : decode 0x0300000010203040#64 = .ok (.fill 0x10203040#32) := by decide
theorem test_decode_build : decode 0x0400000000000000#64 = .ok .build := by decide
theorem test_decode_update : decode 0x0500000000004E20#64 = .ok (.update 20000#32) := by decide
theorem test_decode_close : decode 0x0600000000000000#64 = .ok .close := by decide
/-- C6, C7, E7, E8, F5, B4, U7, C8. -/
theorem test_decode_illegal :
    decode 0#64 = .error .reservedOp ∧ decode 0x0700000000000000#64 = .error .reservedOp ∧
    decode 0x0100000000000100#64 = .error .nonZeroField ∧ decode 0x0100000100000000#64 = .error .nonZeroField ∧
    decode 0x0300000100000000#64 = .error .nonZeroField ∧ decode 0x0400000000000001#64 = .error .nonZeroField ∧
    decode 0x0500000100000000#64 = .error .nonZeroField ∧ decode 0x0600000000000001#64 = .error .nonZeroField := by decide
/-- R85, through the assembler of R83 and R84. -/
theorem test_assemble :
    assemble (.setLedRgb 0 255 0 0) = some 0x02000000FF000000#64 ∧ assemble .clear = some 0x0300000000000000#64 ∧
    assemble .updateNow = some 0x0500000000000000#64 ∧ assemble (.encode 256) = none := by decide
/-- R83's syntax: decimal and hexadecimal numbers. -/
theorem test_readLine :
    readLine "SET_LED 0x00FFFF, 0, 0, 0, 9".toList = some (.setLed 65535 0 0 0 9) ∧
    readLine "UPDATE".toList = some .updateNow ∧ readLine "FILL 16,32,48".toList = some (.fillRgb 16 32 48) ∧
    readLine "BUILD 1".toList = none ∧ readLine "FILL 1,,2".toList = none := by decide

/-! ## The host's words on the reset state, whose configuration is free -/

theorem test_table_word : decodeTableWord 64 0x02000001FF000000 = some (.setLed 1#24 0xFF000000#32) := by decide
theorem test_table_word_short : decodeTableWord 56 0 = none := by decide
theorem test_reset_encode : (after (step (State.reset.withFetchWord 64 0x0100000000000000))).isSome = true := by decide
theorem test_reset_setLed : (after (step (State.reset.withFetchWord 64 0x0200000000000000))).isSome = true := by decide
theorem test_reset_fill : (after (step (State.reset.withFetchWord 64 0x0300000000000000))).isSome = true := by decide
theorem test_reset_build : (after (step (State.reset.withFetchWord 64 0x0400000000000000))).isSome = true := by decide
theorem test_reset_update :
    (after (step (State.reset.withFetchWord 64 0x0500000000000000))).map State.phase = some .sending := by decide
theorem test_reset_close :
    (after (step (State.reset.withFetchWord 64 0x0600000000000000))).map State.phase = some .closed := by decide

/-! ## Commands -/

/-- E5: alternating bits. -/
theorem test_encode_alternating :
    answers rgb1 .idle 0x01000000000000A5#64 = some [.resp 0#8 0xF8C0F8C0C0F8C0F8#64] := by decide
/-- E3: the most significant bit goes to byte 0. -/
theorem test_encode_msb : answers rgb1 .idle 0x0100000000000080#64 = some [.resp 0#8 0xF8C0C0C0C0C0C0C0#64] := by decide
/-- L2: the last entry. -/
theorem test_setLed_last :
    (after (step (blockIn rgb3 .idle [.command 0x0200000211223300#64]))).map State.leds = some [0#32, 0#32, 0x11223300#32] := by
  decide
/-- L3, L5, L6, L8: the checks and their order. -/
theorem test_setLed_errors :
    answers rgb3 .idle 0x0200000311223300#64 = some [.resp 1#8 0#64] ∧
    answers rgb3 .idle 0x0200000011223344#64 = some [.resp 4#8 0#64] ∧
    answers rgb3 .idle 0x0200000311223344#64 = some [.resp 4#8 0#64] ∧
    answers rgbw3 .idle 0x02FFFFFF00000000#64 = some [.resp 1#8 0#64] := by decide
/-- F1. -/
theorem test_fill :
    (after (step (blockIn rgbw3 .idle [.command 0x0300000010203040#64]))).map State.leds =
      some [0x10203040#32, 0x10203040#32, 0x10203040#32] := by decide
/-- F2, F5. -/
theorem test_fill_errors :
    answers rgb3 .idle 0x0300000010203040#64 = some [.resp 4#8 0#64] ∧
    answers rgb3 .idle 0x0300000100000000#64 = some [.resp 3#8 0#64] := by decide
/-- B1 and V-S2: green, red, blue. -/
theorem test_build_order :
    (after (exec .build ((blockIn rgb1 .idle []).setLeds [0x01020300#32]))).map (fun s => bytesAt s 64 24) =
      some [0xC0#8, 0xC0#8, 0xC0#8, 0xC0#8, 0xC0#8, 0xC0#8, 0xF8#8, 0xC0#8,
            0xC0#8, 0xC0#8, 0xC0#8, 0xC0#8, 0xC0#8, 0xC0#8, 0xC0#8, 0xF8#8,
            0xC0#8, 0xC0#8, 0xC0#8, 0xC0#8, 0xC0#8, 0xC0#8, 0xF8#8, 0xF8#8] := by decide +kernel
/-- B2: the white slot comes last. -/
theorem test_build_white :
    (after (exec .build ((blockIn rgbw1 .idle []).setLeds [0x10203040#32]))).map (fun s => bytesAt s 88 8) =
      some [0xC0#8, 0xF8#8, 0xC0#8, 0xC0#8, 0xC0#8, 0xC0#8, 0xC0#8, 0xC0#8] := by decide +kernel
/-- U4, with led 0 = green 255: the frame handed over. -/
theorem test_update_frame :
    (after (exec (.update 0#32) ((blockIn rgb1 .idle []).setLeds [0x00FF0000#32]))).map State.hist =
      some [.txReq (List.replicate 64 0#8 ++ List.replicate 8 0xF8#8 ++ List.replicate 16 0xC0#8)] := by decide +kernel
/-- U2 and U3: after the send. -/
theorem test_update_sent :
    (after (step ((blockIn rgb1 .sending [.txDone true]).setPendDelay 20000#32))).map State.hist =
      some [.delayReq 20000#32] ∧
    (after (step ((blockIn rgb1 .sending [.txDone false]).setPendDelay 20000#32))).map State.hist =
      some [.resp 2#8 0#64] := by decide
/-- C1. -/
theorem test_close :
    answers rgb1 .idle 0x0600000000000000#64 = some [.release, .resp 0#8 0#64] ∧
    (after (step (blockIn rgb1 .idle [.command 0x0600000000000000#64]))).map State.phase = some .closed := by decide
/-- C3, C4, C5: nothing runs on a block that is not open, and `NOT_OPEN` comes before `ILLEGAL`. -/
theorem test_not_open :
    answers rgb1 .closed 0x0500000000000000#64 = some [.resp 5#8 0#64] ∧
    answers rgb1 .unopened 0x0200000011223300#64 = some [.resp 5#8 0#64] ∧
    answers rgb1 .closed 0xFF00000000000000#64 = some [.resp 5#8 0#64] ∧
    (after (step (blockIn rgb1 .closed [.command 0#64]))).map State.fault = some true := by decide
/-- R1 and R3: the requests of the construction. -/
theorem test_construction :
    (after (step (blockIn rgb2 .reset [.resetRelease]))).map State.hist = some [.openReq 6400000] ∧
    (after (step (blockIn rgb2 .opening [.openAck false]))).map State.hist = some [.resp 6#8 0#64] := by decide
/-- R1: the clear frame. -/
theorem test_clear_frame :
    (after (step (blockIn rgb2 .opening [.openAck true]))).map State.hist =
      some [.txReq (List.replicate 64 0#8 ++ List.replicate 48 0xC0#8)] := by decide +kernel
/-- R4 and U8: a word presented while the block is busy stays with the host, and the event overtakes it. -/
theorem test_held :
    (after (step (blockIn rgb2 .initSend [.command 0x0200000001010100#64, .txDone true]))).map State.inputs =
      some [.command 0x0200000001010100#64] ∧
    (after (step (blockIn rgb2 .sending [.command 0x0200000001010100#64]))).isNone = true := by decide

/-! ## Witnesses: for each statement with hypotheses, values that meet them -/

theorem witness_ChannelCountAndTransmitLength :
    rgb1.mode = .rgb ∧ rgbw1.mode = .rgbw ∧ rgb1.headerLen = 64 ∧ rgbwMax.headerLen = 64 := by decide
theorem witness_TransmitLengthBelowTwoToThe29 : rgbwMax.headerLen = 64 := by decide
/-- Both clauses, at the ends of the ranges. -/
theorem witness_ParametersOutsideConfigOkAreRefused :
    (params .rgb 1).ok = true ∧ (params .rgb 16777215).ok = true ∧ (params .rgb 0).ok = false ∧
    (params .rgb 16777216).ok = false := by decide
theorem witness_EncodeOfDecode : decode 0x0400000000000000#64 = .ok .build := by decide
theorem witness_DecoderFollowsTheOpcodeTable :
    opcodeTable ≠ [] ∧ decode 0x01000000000000FF#64 = .ok (.encode 0xFF#8) := by decide
theorem witness_AssemblerPlacesOperands :
    (255 < 256 ∧ 256 ≤ 256) ∧ ((16777215 : Nat) < 16777216 ∧ ¬(16777216 : Nat) < 16777216) ∧
    ((4294967295 : Nat) < 4294967296 ∧ (4294967296 : Nat) ≤ 4294967296) := by decide
theorem witness_StepRunsTheDecodedCommand :
    takeInput (blockIn rgb1 .idle [.command 0x0400000000000000#64]).phase
      (blockIn rgb1 .idle [.command 0x0400000000000000#64]).inputs = some (.command 0x0400000000000000#64, []) ∧
    decode 0x0400000000000000#64 = .ok .build ∧
    takeInput (blockIn rgb1 .idle [.command 0#64]).phase (blockIn rgb1 .idle [.command 0#64]).inputs =
      some (.command 0#64, []) ∧ decode 0#64 = .error .reservedOp ∧
    decodeTableWord 64 0x0400000000000000 = some .build := by decide
theorem witness_EncoderBytes : 0 < 8 ∧ 7 < 8 := by decide
theorem witness_EncoderIsOneToOne : enc rgb1 0xA5#8 = enc rgb1 0xA5#8 := by decide
theorem witness_EncodeResultPacking :
    enc rgb1 0xA5#8 = [0xF8#8, 0xC0#8, 0xF8#8, 0xC0#8, 0xC0#8, 0xF8#8, 0xC0#8, 0xF8#8] := by decide
/-- For the statements whose only hypothesis is the phase `IDLE`: EncodeAnswersTheEncoding, BuildRunsTheFrameFunction,
UpdateBuildsAndHandsOver, CloseReleasesTheBus, LargestIndexAlwaysFails. -/
theorem witness_idle : (blockIn rgb1 .idle []).phase = .idle := by decide
theorem witness_SlotAddressesTileTheSegments :
    (0 < rgb1.numLeds ∧ 2 < channels rgb1 ∧ 7 < 8 ∧ rgb1.headerLen = 64) ∧ slotAddr rgb1 0 2 7 = slotAddr rgb1 0 2 7 ∧
    rgb1.headerLen ≤ 87 ∧ 87 < txLen rgb1 := by decide
theorem witness_FramePlacesEveryChannel :
    Memory.wf (blockIn rgbw3 .idle []).txbuf ∧ 2 < rgbw3.numLeds ∧ 3 < channels rgbw3 ∧ 7 < 8 := by decide
/-- An address in the header, one in the segments, one above. -/
theorem witness_FrameWritesOnlyTheSegments :
    Memory.wf (blockIn rgb1 .idle []).txbuf ∧ 63 < rgb1.headerLen ∧ rgb1.headerLen ≤ 64 ∧ 87 < txLen rgb1 ∧
    txLen rgb1 ≤ 88 := by decide
/-- A block that meets the invariant, in `IDLE`: for FrameIsHeaderThenSegments. -/
theorem witness_inv : (blockIn rgb2 .idle []).Inv ∧ (blockIn rgb2 .idle []).phase = .idle :=
  ⟨blockIn_inv _ _ _ (by decide), rfl⟩
theorem witness_GreenRedBlueOrder :
    Memory.wf ((blockIn rgb1 .idle []).setLeds [0x01020300#32]).txbuf ∧ 0 < rgb1.numLeds ∧
    led ((blockIn rgb1 .idle []).setLeds [0x01020300#32]) 0 = 0x01020300#32 := by decide
theorem witness_ClearFrame : (blockIn rgb2 .idle []).Inv ∧ ∀ x ∈ (blockIn rgb2 .idle []).leds, x = 0x00000000#32 :=
  ⟨witness_inv.1, fun _ hx => (List.mem_replicate.mp hx).2⟩
theorem witness_BuildTwiceIsBuildOnce :
    Memory.wf (blockIn rgb1 .idle []).txbuf ∧
    ∃ t u, exec .build (blockIn rgb1 .idle []) = .next t ∧ exec .build t = .next u :=
  ⟨by decide, _, _, rfl, rfl⟩
/-- A delay, and none. -/
theorem witness_SuccessfulSend :
    takeInput (blockIn rgb1 .sending [.txDone true]).phase (blockIn rgb1 .sending [.txDone true]).inputs =
      some (.txDone true, []) ∧ (blockIn rgb1 .sending [.txDone true]).phase = .sending ∧
    (blockIn rgb1 .sending [.txDone true]).pendDelay = 0#32 ∧
    ((blockIn rgb1 .sending [.txDone true]).setPendDelay 1#32).pendDelay ≠ 0#32 := by decide
theorem witness_FailedSend :
    takeInput (blockIn rgb1 .sending [.txDone false]).phase (blockIn rgb1 .sending [.txDone false]).inputs =
      some (.txDone false, []) ∧ (blockIn rgb1 .sending [.txDone false]).phase = .sending := by decide
theorem witness_EndOfDelay :
    takeInput (blockIn rgb1 .delaying [.delayDone]).phase (blockIn rgb1 .delaying [.delayDone]).inputs =
      some (.delayDone, []) := by decide
theorem witness_UpdateEndsInOneResponse :
    (blockIn rgb1 .idle [.command 0x0500000000000001#64, .txDone true, .delayDone]).phase = .idle ∧
    decode 0x0500000000000001#64 = .ok (.update 1#32) ∧ (1#32 : Micros) ≠ 0#32 ∧
    (blockIn rgb1 .idle [.command 0x0500000000000000#64, .txDone false]).phase = .idle ∧
    decode 0x0500000000000000#64 = .ok (.update 0#32) := by decide
/-- Two blocks with one LED store, of which one has built a frame. -/
theorem witness_SameLedsSendTheSameFrame :
    (blockIn rgb2 .idle []).Inv ∧ ((blockIn rgb2 .idle []).setPendDelay 1#32).Inv ∧
    (blockIn rgb2 .idle []).leds = ((blockIn rgb2 .idle []).setPendDelay 1#32).leds :=
  ⟨witness_inv.1,
    ⟨witness_inv.1.1, witness_inv.1.2, witness_inv.1.3, witness_inv.1.4, witness_inv.1.5, fun h => by cases h⟩, rfl⟩
theorem witness_OnlyUpdateAndConstructionSend :
    takeInput (blockIn rgb1 .closed [.command 0#64]).phase (blockIn rgb1 .closed [.command 0#64]).inputs =
      some (.command 0#64, []) ∧ ∃ t, step (blockIn rgb1 .closed [.command 0#64]) = .next t :=
  ⟨by decide, _, rfl⟩
/-- Each clause, at the boundary index. -/
theorem witness_SetLedInIdle :
    (blockIn rgb3 .idle []).phase = .idle ∧ (rgb3.mode = .rgb ∧ (1#32 : Color).extractLsb' 0 8 ≠ 0#8) ∧
    ¬(rgb3.mode = .rgb ∧ (0x100#32 : Color).extractLsb' 0 8 ≠ 0#8) ∧ rgb3.numLeds ≤ (3#24 : Index).toNat ∧
    (2#24 : Index).toNat < rgb3.numLeds := by decide
theorem witness_FillInIdle :
    (blockIn rgb3 .idle []).phase = .idle ∧ (rgb3.mode = .rgb ∧ (1#32 : Color).extractLsb' 0 8 ≠ 0#8) ∧
    ¬(rgb3.mode = .rgb ∧ (0x100#32 : Color).extractLsb' 0 8 ≠ 0#8) ∧ 2 < rgb3.numLeds := by decide
theorem witness_SetLedWritesOnlyItsEntry :
    (blockIn rgb2 .idle []).Inv ∧ ∃ t, exec (.setLed 1#24 0x100#32) (blockIn rgb2 .idle []) = .next t :=
  ⟨witness_inv.1, _, rfl⟩
theorem witness_FilledEntriesAreSeparate :
    (blockIn rgb3 .idle []).phase = .idle ∧ (2#24 : Index).toNat < rgb3.numLeds ∧
    ¬(rgb3.mode = .rgb ∧ ((0x100#32 : Color).extractLsb' 0 8 ≠ 0#8 ∨ (0x200#32 : Color).extractLsb' 0 8 ≠ 0#8)) ∧
    ∃ t u, exec (.fill 0x100#32) (blockIn rgb3 .idle []) = .next t ∧ exec (.setLed 2#24 0x200#32) t = .next u :=
  ⟨by decide, by decide, by decide, _, _, rfl, rfl⟩
theorem witness_LedWritesAreStateOnly :
    (∃ t, exec (.setLed 0#24 0#32) (blockIn rgb1 .idle []) = .next t) ∧
    ∃ t, exec (.fill 0#32) (blockIn rgb1 .closed []) = .next t :=
  ⟨⟨_, rfl⟩, ⟨_, rfl⟩⟩
theorem witness_CommandsThatStoreNoByte :
    (∃ t, exec (.encode 0#8) (blockIn rgb1 .idle []) = .next t) ∧ ∃ t, exec .close (blockIn rgb1 .idle []) = .next t :=
  ⟨⟨_, rfl⟩, ⟨_, rfl⟩⟩
/-- BUILD stores, and an address of no slot; and a block that is not open. -/
theorem witness_CommandsThatStoreBytes :
    (∃ t, exec .build (blockIn rgb1 .idle []) = .next t) ∧ (∃ t, exec (.update 0#32) (blockIn rgb1 .closed []) = .next t) ∧
    ∀ l k j, l < rgb1.numLeds → k < channels rgb1 → j < 8 → slotAddr rgb1 l k j ≠ 63 :=
  ⟨⟨_, rfl⟩, ⟨_, rfl⟩, fun l k j _ _ _ h => by simp only [slotAddr, show rgb1.headerLen = 64 from rfl] at h; omega⟩
theorem witness_NotOpenFault :
    (blockIn rgb1 .unopened [.command 0#64]).phase = .unopened ∧
    takeInput (blockIn rgb1 .unopened [.command 0#64]).phase (blockIn rgb1 .unopened [.command 0#64]).inputs =
      some (.command 0#64, []) := by decide
theorem witness_IllegalWordAnswered :
    (blockIn rgb1 .idle [.command 0#64]).phase = .idle ∧
    takeInput (blockIn rgb1 .idle [.command 0#64]).phase (blockIn rgb1 .idle [.command 0#64]).inputs =
      some (.command 0#64, []) ∧ decode 0#64 = .error .reservedOp := by decide
theorem witness_FirstResultThatApplies :
    takeInput (blockIn rgb1 .idle [.delayDone, .command 0#64]).phase (blockIn rgb1 .idle [.delayDone, .command 0#64]).inputs =
      some (.command 0#64, [.delayDone]) := by decide
theorem witness_ErrorsArePrecise :
    ∃ t, step (blockIn rgb1 .idle [.command 0#64]) = .next t ∧
      t.hist = (blockIn rgb1 .idle [.command 0#64]).hist ++ [.resp 3#8 0#64] ∧ (3#8 : Byte) ≠ 0#8 :=
  ⟨_, rfl, by decide, by decide⟩
theorem witness_WordsAreHeldWhileBusy :
    (blockIn rgb1 .sending [.command 0#64, .txDone true]).phase = .sending ∧
    ∃ t, step (blockIn rgb1 .sending [.command 0#64, .txDone true]) = .next t :=
  ⟨by decide, _, rfl⟩
theorem witness_StepTakesTheFirstAwaitedInput :
    (∃ t, step (blockIn rgb1 .sending [.delayDone, .txDone true]) = .next t) ∧
    ∀ x ∈ (blockIn rgb1 .sending [.delayDone]).inputs, (blockIn rgb1 .sending [.delayDone]).phase.takes x = false :=
  ⟨⟨_, rfl⟩, by decide⟩
theorem witness_ResetStateOfTheSpec : 0 < rgb1.numLeds := by decide
theorem witness_ResetAsserted :
    takeInput (blockIn rgb1 .sending [.resetAssert]).phase (blockIn rgb1 .sending [.resetAssert]).inputs =
      some (.resetAssert, []) := by decide
theorem witness_ResetReleased :
    takeInput (blockIn rgb1 .reset [.resetRelease]).phase (blockIn rgb1 .reset [.resetRelease]).inputs =
      some (.resetRelease, []) := by decide
theorem witness_OpenFailed :
    takeInput (blockIn rgb1 .opening [.openAck false]).phase (blockIn rgb1 .opening [.openAck false]).inputs =
      some (.openAck false, []) := by decide
theorem witness_OpenSucceeded :
    (blockIn rgb1 .opening [.openAck true]).Inv ∧
    takeInput (blockIn rgb1 .opening [.openAck true]).phase (blockIn rgb1 .opening [.openAck true]).inputs =
      some (.openAck true, []) ∧ rgb1.headerLen ≤ 64 ∧ 87 < txLen rgb1 :=
  ⟨blockIn_inv _ _ _ (by decide), by decide⟩
theorem witness_EndOfConstruction :
    (blockIn rgb1 .initSend [.txDone true]).phase = .initSend ∧
    takeInput (blockIn rgb1 .initSend [.txDone true]).phase (blockIn rgb1 .initSend [.txDone true]).inputs =
      some (.txDone true, []) := by decide
theorem witness_ConstructionFromReset : 63 < rgb1.headerLen ∧ rgb1.headerLen ≤ 64 ∧ 87 < txLen rgb1 := by decide
/-- For the statements about every step from a state that meets the invariant. -/
theorem witness_StepKeepsTheInvariant :
    (blockIn rgb2 .idle [.command 0x0400000000000000#64]).Inv ∧
    ∃ t, step (blockIn rgb2 .idle [.command 0x0400000000000000#64]) = .next t :=
  ⟨blockIn_inv _ _ _ (by decide), _, rfl⟩
theorem witness_PhasesFollowTheTable :
    (takeInput (blockIn rgb1 .delaying [.delayDone]).phase (blockIn rgb1 .delaying [.delayDone]).inputs =
      some (.delayDone, [])) ∧ (blockIn rgb1 .closed [.resetAssert]).phase = .closed ∧
    ∃ t, step (blockIn rgb1 .closed [.resetAssert]) = .next t :=
  ⟨by decide, by decide, _, rfl⟩
/-- The bit set, kept and cleared. -/
theorem witness_FaultBitIsSticky :
    ((blockIn rgb1 .closed [.resetAssert]).setFault true).fault = true ∧
    (after (step ((blockIn rgb1 .closed [.resetAssert]).setFault true))).map State.fault = some false ∧
    (blockIn rgb1 .closed [.command 0#64]).fault = false ∧
    (after (step (blockIn rgb1 .closed [.command 0#64]))).map State.fault = some true := by decide
theorem witness_ConfigurationIsFixed :
    ∃ t, Reaches (blockIn rgb1 .idle [.command 0#64]) t ∧ t.hist = [.resp 3#8 0#64] :=
  ⟨_, Reaches.step (Reaches.refl _) rfl, by decide⟩
theorem witness_HistoryOnlyGrows :
    takeInput (blockIn rgb1 .reset [.resetRelease]).phase (blockIn rgb1 .reset [.resetRelease]).inputs =
      some (.resetRelease, []) ∧ (∃ t, step (blockIn rgb1 .reset [.resetRelease]) = .next t) ∧
    Input.resetRelease ≠ .resetAssert :=
  ⟨by decide, ⟨_, rfl⟩, by decide⟩
theorem witness_EveryEventIsLegal :
    (blockIn rgb2 .idle [.command 0#64]).Inv ∧ (blockIn rgb2 .idle [.command 0#64]).histLegal ∧
    (∃ t, step (blockIn rgb2 .idle [.command 0#64]) = .next t) ∧
    ∃ t, Reaches ((State.resetOf rgb2).setInputs [.resetRelease]) t ∧ t.hist = [.openReq 6400000] :=
  ⟨blockIn_inv _ _ _ (by decide), fun e he => (by cases he), ⟨_, rfl⟩,
    _, Reaches.step (Reaches.refl _) rfl, by decide⟩
theorem witness_OutstandingRequestMatchesTheBuffer :
    (blockIn rgb1 .reset [.resetRelease]).asked ∧ ∃ t, step (blockIn rgb1 .reset [.resetRelease]) = .next t :=
  ⟨⟨fun _ => rfl, fun h => (by cases h), fun h => (by rcases h with h | h <;> cases h), fun h => (by cases h)⟩, _, rfl⟩
/-- Two blocks that differ in the bus clock. -/
theorem witness_BusParametersDoNotMatter :
    let slow : Config := ⟨{ params .rgb 1 with clockKHz := 800 }, by decide⟩
    SameButBus (blockIn rgb1 .idle [.command 0#64]) (blockIn slow .idle [.command 0#64]) ∧
    ∃ t, step (blockIn rgb1 .idle [.command 0#64]) = .next t :=
  ⟨⟨rfl, rfl, rfl, rfl, rfl, rfl, rfl, rfl, rfl, rfl, rfl, rfl⟩, _, rfl⟩

end Sys2Proof.Tests
end

section
/-! PROOFS. The encoder (40_encoder.md). -/

namespace Sys2Proof.Proofs

open Sys2Proof.Machine

/-- The read form of `enc_getD` that needs no default byte. -/
theorem enc_getElem?_of_lt (c : Config) (v : Byte) {j : Nat} (h : j < 8) :
    (enc c v)[j]? = some (bitByte c (v.getLsbD (7 - j))) := by
  have hlen : j < (enc c v).length := by simpa using h
  rw [List.getElem?_eq_getElem hlen, ← List.getD_eq_getElem _ 0#8 hlen, enc_getD c v h]

/-- Settles O11: the length law of the encoder, and its byte `j` read as the byte of bit `7 - j`. -/
theorem encoderBytes : Obligations.EncoderBytes := by
  intro c v
  refine ⟨enc_length c v, fun j hj => ?_⟩
  rw [enc_getElem?_of_lt c v hj, bitByte_eq]

end Sys2Proof.Proofs
end

section
/-! PROOFS. The LED-state writes (43_led_state.md). -/

namespace Sys2Proof.Proofs

open Sys2Proof.Machine

/-- Two states with the same LED store read the same at every entry. -/
theorem led_congr {s t : State} (h : t.leds = s.leds) (i : Nat) : led t i = led s i := by rw [led, led, h]

/-- The entry written reads as the colour. -/
theorem led_of_leds_set_same {s t : State} {i : Nat} {c : Color} (h : t.leds = s.leds.set i c) (hi : i < s.leds.length) :
    led t i = c := by
  rw [led, h, List.getD_eq_getElem?_getD, List.getElem?_set_self hi, Option.getD_some]

/-- Every other entry reads as before. -/
theorem led_of_leds_set_other {s t : State} {i j : Nat} {c : Color} (h : t.leds = s.leds.set i c) (hj : j ≠ i) :
    led t j = led s j := by
  rw [led, led, h, List.getD_eq_getElem?_getD, List.getD_eq_getElem?_getD, List.getElem?_set_ne hj.symm]

/-- The index check compares `IDX` itself (R152): its extension to 32 bits keeps its value. -/
theorem indexInRange_eq_decide (c : Config) (idx : Index) : indexInRange c idx = decide (idx.toNat < c.numLeds) := by
  rw [indexInRange, BitVec.toNat_setWidth_of_le (by decide)]

/-- All that a SET_LED can do if it makes a step: one of the three answers of `IDLE` in the order of their checks (R151), or the
fault (R170). -/
theorem exec_setLed_next {s t : State} {idx : Index} {col : Color} (h : exec (.setLed idx col) s = .next t) :
    (s.phase = .idle ∧ modeClash s.cfg col = true ∧ t = s.respond codeModeError 0#64) ∨
    (s.phase = .idle ∧ modeClash s.cfg col = false ∧ idx.toNat < s.cfg.numLeds ∧
      t = (s.setLed idx.toNat col).respond codeOk 0#64) ∨
    (s.phase = .idle ∧ modeClash s.cfg col = false ∧ s.cfg.numLeds ≤ idx.toNat ∧ t = s.respond codeIndexError 0#64) ∨
    ((s.phase = .unopened ∨ s.phase = .closed) ∧ t = s.raiseNotOpen) := by
  change execSetLed idx col s = .next t at h
  obtain ⟨hp, rfl⟩ | hn := whenAccepted_next h
  · cases hm : modeClash s.cfg col with
    | true => exact .inl ⟨hp, rfl, by simp⟩
    | false =>
      by_cases hi : idx.toNat < s.cfg.numLeds
      · exact .inr (.inl ⟨hp, rfl, hi, by simp [indexInRange_eq_decide, hi]⟩)
      · exact .inr (.inr (.inl ⟨hp, rfl, not_lt.mp hi, by simp [indexInRange_eq_decide, hi]⟩))
  · exact .inr (.inr (.inr hn))

/-- A SET_LED answers `OK` and stores the colour at an index in range, or it answers another code and leaves the LED store. -/
theorem setLed_stores_or_refuses {s t : State} {idx : Index} {col : Color} (h : exec (.setLed idx col) s = .next t) :
    (idx.toNat < s.cfg.numLeds ∧ t.leds = s.leds.set idx.toNat col ∧ t.hist = s.hist ++ [.resp codeOk 0#64]) ∨
    (t.leds = s.leds ∧ ∃ code, code ≠ codeOk ∧ t.hist = s.hist ++ [.resp code 0#64]) := by
  obtain ⟨-, -, rfl⟩ | ⟨-, -, hi, rfl⟩ | ⟨-, -, -, rfl⟩ | ⟨-, rfl⟩ := exec_setLed_next h
  · exact .inr ⟨rfl, codeModeError, by decide, rfl⟩
  · exact .inl ⟨hi, rfl, rfl⟩
  · exact .inr ⟨rfl, codeIndexError, by decide, rfl⟩
  · exact .inr ⟨rfl, codeNotOpen, by decide, rfl⟩

/-- Settles O32: the one store is at `IDX` and goes with `OK`; every other answer has another code and leaves the LED store. -/
theorem setLedWritesOnlyItsEntry : Obligations.SetLedWritesOnlyItsEntry := by
  intro s t idx col hinv h
  obtain ⟨hi, hleds, hhist⟩ | ⟨hleds, code, hcode, hhist⟩ := setLed_stores_or_refuses h
  · refine ⟨fun j hj => led_of_leds_set_other hleds hj, fun _ => ?_, fun hne => absurd hhist hne⟩
    exact led_of_leds_set_same hleds (by rwa [hinv.leds_length])
  · refine ⟨fun j _ => led_congr hleds j, fun hok => ?_, fun _ => led_congr hleds _⟩
    rw [hhist] at hok
    exact absurd (by simpa [codeOk] using hok) hcode

end Sys2Proof.Proofs
end

section
/-! PROOFS. The command word: its fields, the decoder and the encoder, the opcode table (30_encoding.md). -/

namespace Sys2Proof.Proofs

open Sys2Proof.Laws.WordFields (opField_cmd64 idxField_cmd64 colField_cmd64)

/-! ## Fields and words -/

/-- Words put together from parts of the same widths are equal exactly if their parts are. -/
theorem append_eq_append_iff {m n : Nat} {x x' : BitVec m} {y y' : BitVec n} :
    x ++ y = x' ++ y' ↔ x = x' ∧ y = y' := by
  refine ⟨fun h => ⟨?_, ?_⟩, fun ⟨hx, hy⟩ => by rw [hx, hy]⟩
  · simpa [BitVec.extractLsb'_append_eq_left] using congrArg (BitVec.extractLsb' n m) h
  · simpa [BitVec.extractLsb'_append_eq_right] using congrArg (BitVec.extractLsb' 0 n) h

/-- A word is its three fields put together (R71). -/
theorem cmd64_fields (w : Word) : cmd64 (opField w) (idxField w) (colField w) = w := by
  unfold cmd64 opField idxField colField
  rw [BitVec.extractLsb'_append_extractLsb'_eq_extractLsb' (by rfl),
    BitVec.extractLsb'_append_extractLsb'_eq_extractLsb' (by rfl)]
  exact BitVec.extractLsb'_eq_self

/-- A word is put together from three values exactly if they are its fields. -/
theorem eq_cmd64_iff {w : Word} {op : Byte} {idx : Index} {col : Color} :
    w = cmd64 op idx col ↔ opField w = op ∧ idxField w = idx ∧ colField w = col := by
  refine ⟨fun h => ?_, fun ⟨ho, hi, hc⟩ => by rw [← ho, ← hi, ← hc, cmd64_fields]⟩
  rw [h]
  exact ⟨opField_cmd64 .., idxField_cmd64 .., colField_cmd64 ..⟩

/-- Bits 31:0 of a word are its bits 31:8 and then its bits 7:0. -/
theorem colField_eq_append (w : Word) : colField w = (midField w ++ valField w : BitVec (24 + 8)) := by
  unfold colField midField valField
  rw [BitVec.extractLsb'_append_extractLsb'_eq_extractLsb' (by rfl)]

theorem colField_eq_append_iff {w : Word} {m : BitVec 24} {v : Byte} :
    colField w = (m ++ v : BitVec (24 + 8)) ↔ midField w = m ∧ valField w = v := by
  rw [colField_eq_append]
  exact append_eq_append_iff

/-! ## Decoder against encoder -/

theorem requireZero_eq_ok {z : Bool} {i j : Instr} : requireZero z i = .ok j ↔ z = true ∧ i = j := by
  cases z <;> simp [requireZero]

/-- Decoding the word of a command gives the command: its fields are those it was put together from. -/
theorem decode_encode (i : Instr) : decode (encode i) = .ok i := by
  obtain ⟨w, hw⟩ : ∃ w, w = encode i := ⟨_, rfl⟩
  rw [← hw]
  cases i with
  | encode v =>
    obtain ⟨ho, hi, hc⟩ := eq_cmd64_iff.mp hw
    obtain ⟨hm, hv⟩ := colField_eq_append_iff.mp hc
    simp [decode, requireZero, ho, hi, hm, hv]
  | setLed idx col =>
    obtain ⟨ho, hi, hc⟩ := eq_cmd64_iff.mp hw
    simp [decode, ho, hi, hc]
  | fill col =>
    obtain ⟨ho, hi, hc⟩ := eq_cmd64_iff.mp hw
    simp [decode, requireZero, ho, hi, hc]
  | build =>
    obtain ⟨ho, hi, hc⟩ := eq_cmd64_iff.mp hw
    simp [decode, requireZero, ho, hi, hc]
  | update dly =>
    obtain ⟨ho, hi, hc⟩ := eq_cmd64_iff.mp hw
    simp [decode, requireZero, ho, hi, hc]
  | close =>
    obtain ⟨ho, hi, hc⟩ := eq_cmd64_iff.mp hw
    simp [decode, requireZero, ho, hi, hc]

/-- Settles O5: every constructor's word read back field by field. -/
theorem decodeOfEncode : Obligations.DecodeOfEncode := decode_encode

/-- A decoded word is the word of its command: the decoder checked or read each of its fields. -/
theorem encode_of_decode {w : Word} {i : Instr} (h : decode w = .ok i) : w = encode i := by
  unfold decode at h
  split_ifs at h with h1 h2 h3 h4 h5 h6
  · simp only [requireZero_eq_ok, Bool.and_eq_true, decide_eq_true_eq] at h
    obtain ⟨⟨hi, hm⟩, rfl⟩ := h
    exact eq_cmd64_iff.mpr ⟨h1, hi, colField_eq_append_iff.mpr ⟨hm, rfl⟩⟩
  · cases h
    exact eq_cmd64_iff.mpr ⟨h2, rfl, rfl⟩
  · simp only [requireZero_eq_ok, decide_eq_true_eq] at h
    obtain ⟨hi, rfl⟩ := h
    exact eq_cmd64_iff.mpr ⟨h3, hi, rfl⟩
  · simp only [requireZero_eq_ok, Bool.and_eq_true, decide_eq_true_eq] at h
    obtain ⟨⟨hi, hc⟩, rfl⟩ := h
    exact eq_cmd64_iff.mpr ⟨h4, hi, hc⟩
  · simp only [requireZero_eq_ok, decide_eq_true_eq] at h
    obtain ⟨hi, rfl⟩ := h
    exact eq_cmd64_iff.mpr ⟨h5, hi, rfl⟩
  · simp only [requireZero_eq_ok, Bool.and_eq_true, decide_eq_true_eq] at h
    obtain ⟨⟨hi, hc⟩, rfl⟩ := h
    exact eq_cmd64_iff.mpr ⟨h6, hi, hc⟩

/-- The decoder gives a command for that command's word alone. -/
theorem decode_eq_ok_iff {w : Word} {i : Instr} : decode w = .ok i ↔ w = encode i :=
  ⟨encode_of_decode, fun h => h ▸ decode_encode i⟩

/-- Settles O6: a decoded word is the word of its command. -/
theorem encodeOfDecode : Obligations.EncodeOfDecode := fun _ _ h => (encode_of_decode h).symm


/-! ## The opcode table -/

/-- A word under a mask, field by field. -/
theorem and_cmd64_eq_iff {w : Word} {a op : Byte} {b idx : Index} {c col : Color} :
    w &&& cmd64 a b c = cmd64 op idx col ↔ opField w &&& a = op ∧ idxField w &&& b = idx ∧ colField w &&& c = col := by
  conv_lhs => rw [← cmd64_fields w]
  unfold cmd64
  rw [BitVec.and_append, BitVec.and_append, append_eq_append_iff, append_eq_append_iff, and_assoc]

/-- ENCODE's mask leaves `V` free. -/
theorem and_encodeMask_eq_iff (w : Word) :
    w &&& 0xFFFFFFFFFFFFFF00#64 = 0x0100000000000000#64 ↔ ∃ v, w = encode (.encode v) := by
  have hmask : (0xFFFFFFFFFFFFFF00#64 : Word) = cmd64 (BitVec.allOnes 8) (BitVec.allOnes 24) (BitVec.allOnes 24 ++ 0#8) := rfl
  have hmatch : (0x0100000000000000#64 : Word) = cmd64 0x01#8 0#24 (0#24 ++ 0#8) := rfl
  rw [hmask, hmatch, and_cmd64_eq_iff, colField_eq_append, BitVec.and_append, append_eq_append_iff]
  simp only [BitVec.and_allOnes, BitVec.and_zero, and_true]
  constructor
  · rintro ⟨ho, hi, hm⟩
    exact ⟨valField w, eq_cmd64_iff.mpr ⟨ho, hi, colField_eq_append_iff.mpr ⟨hm, rfl⟩⟩⟩
  · rintro ⟨v, hw⟩
    obtain ⟨ho, hi, hc⟩ := eq_cmd64_iff.mp hw
    exact ⟨ho, hi, (colField_eq_append_iff.mp hc).1⟩

/-- SET_LED's mask leaves both operands free. -/
theorem and_setLedMask_eq_iff (w : Word) :
    w &&& 0xFF00000000000000#64 = 0x0200000000000000#64 ↔ ∃ idx col, w = encode (.setLed idx col) := by
  have hmask : (0xFF00000000000000#64 : Word) = cmd64 (BitVec.allOnes 8) 0#24 0#32 := rfl
  have hmatch : (0x0200000000000000#64 : Word) = cmd64 0x02#8 0#24 0#32 := rfl
  rw [hmask, hmatch, and_cmd64_eq_iff]
  simp only [BitVec.and_allOnes, BitVec.and_zero, and_true]
  constructor
  · exact fun ho => ⟨idxField w, colField w, eq_cmd64_iff.mpr ⟨ho, rfl, rfl⟩⟩
  · rintro ⟨idx, col, hw⟩
    exact (eq_cmd64_iff.mp hw).1

/-- The mask of FILL and UPDATE leaves bits 31:0 free. -/
theorem and_highMask_eq_iff (w : Word) (op : Byte) :
    w &&& 0xFFFFFFFF00000000#64 = cmd64 op 0#24 0#32 ↔ ∃ col, w = cmd64 op 0#24 col := by
  have hmask : (0xFFFFFFFF00000000#64 : Word) = cmd64 (BitVec.allOnes 8) (BitVec.allOnes 24) 0#32 := rfl
  rw [hmask, and_cmd64_eq_iff]
  simp only [BitVec.and_allOnes, BitVec.and_zero, and_true]
  constructor
  · exact fun ⟨ho, hi⟩ => ⟨colField w, eq_cmd64_iff.mpr ⟨ho, hi, rfl⟩⟩
  · rintro ⟨col, hw⟩
    obtain ⟨ho, hi, -⟩ := eq_cmd64_iff.mp hw
    exact ⟨ho, hi⟩

/-- The mask of BUILD and CLOSE leaves nothing free. -/
theorem and_fullMask (w : Word) : w &&& 0xFFFFFFFFFFFFFFFF#64 = w := BitVec.and_allOnes

theorem encode_build : encode .build = 0x0400000000000000#64 := rfl

theorem encode_close : encode .close = 0x0600000000000000#64 := rfl

/-- A property of some command is one of some command of one of the six kinds. -/
theorem exists_instr_iff {P : Instr → Prop} :
    (∃ i, P i) ↔ (∃ v, P (.encode v)) ∨ (∃ idx col, P (.setLed idx col)) ∨ (∃ col, P (.fill col)) ∨ P .build ∨
      (∃ dly, P (.update dly)) ∨ P .close := by
  constructor
  · rintro ⟨i, hi⟩
    cases i with
    | encode v => exact .inl ⟨v, hi⟩
    | setLed idx col => exact .inr (.inl ⟨idx, col, hi⟩)
    | fill col => exact .inr (.inr (.inl ⟨col, hi⟩))
    | build => exact .inr (.inr (.inr (.inl hi)))
    | update dly => exact .inr (.inr (.inr (.inr (.inl ⟨dly, hi⟩))))
    | close => exact .inr (.inr (.inr (.inr (.inr hi))))
  · rintro (⟨v, h⟩ | ⟨idx, col, h⟩ | ⟨col, h⟩ | h | ⟨dly, h⟩ | h) <;> exact ⟨_, h⟩

/-- A word decodes to a command of a row of the table exactly if the word under the row's mask is the row's match. -/
theorem decode_row_iff (w : Word) {r : Row} (hr : r ∈ opcodeTable) :
    (∃ i : Instr, decode w = .ok i ∧ i.mnemonic = r.mnemonic) ↔ w &&& r.mask = r.matchBits := by
  simp only [opcodeTable, List.mem_cons, List.not_mem_nil, or_false] at hr
  simp only [exists_instr_iff, decode_eq_ok_iff]
  obtain rfl | rfl | rfl | rfl | rfl | rfl := hr
  · simpa [Instr.mnemonic] using (and_encodeMask_eq_iff w).symm
  · simpa [Instr.mnemonic] using (and_setLedMask_eq_iff w).symm
  · refine .trans ?_ (and_highMask_eq_iff w 0x03#8).symm
    simp [Instr.mnemonic, encode]
  · simp [Instr.mnemonic, and_fullMask, encode_build]
  · refine .trans ?_ (and_highMask_eq_iff w 0x05#8).symm
    simp [Instr.mnemonic, encode]
  · simp [Instr.mnemonic, and_fullMask, encode_close]

/-- Every command has a row. -/
theorem exists_row_of_instr (i : Instr) : ∃ r ∈ opcodeTable, r.mnemonic = i.mnemonic := by
  cases i <;> simp [opcodeTable, Instr.mnemonic]

/-- Settles O7: the rows through `decode_row_iff`; a word in two rows would decode to one command with two names. -/
theorem decoderFollowsTheOpcodeTable : Obligations.DecoderFollowsTheOpcodeTable := by
  refine ⟨fun w r hr => decode_row_iff w hr, fun _ i _ => exists_row_of_instr i, ?_⟩
  have hnames : opcodeTable.Pairwise fun a b => a.mnemonic ≠ b.mnemonic := by decide
  refine hnames.imp_of_mem fun {a b} ha hb hne w ⟨hwa, hwb⟩ => hne ?_
  obtain ⟨i, hi, hia⟩ := (decode_row_iff w ha).mpr hwa
  obtain ⟨j, hj, hjb⟩ := (decode_row_iff w hb).mpr hwb
  obtain rfl : i = j := Except.ok.inj (hi.symm.trans hj)
  exact hia.symm.trans hjb

/-! ## Illegal words -/

theorem requireZero_eq_error {z : Bool} {i : Instr} {e : Illegal} :
    requireZero z i = .error e ↔ z = false ∧ e = .nonZeroField := by
  cases z <;> simp [requireZero, eq_comm]

theorem append_eq_zero_iff {m n : Nat} {x : BitVec m} {y : BitVec n} :
    x ++ y = (0#(m + n)) ↔ x = 0#m ∧ y = 0#n := by
  rw [← BitVec.zero_append_zero, append_eq_append_iff]

/-- Bits 55:8, which ENCODE marks `0`. -/
theorem extract_8_48_eq_zero_iff (w : Word) : w.extractLsb' 8 48 = 0#48 ↔ idxField w = 0#24 ∧ midField w = 0#24 := by
  rw [← append_eq_zero_iff]
  unfold idxField midField
  rw [BitVec.extractLsb'_append_extractLsb'_eq_extractLsb' (by rfl)]

/-- Bits 55:0, which BUILD and CLOSE mark `0`. -/
theorem extract_0_56_eq_zero_iff (w : Word) : w.extractLsb' 0 56 = 0#56 ↔ idxField w = 0#24 ∧ colField w = 0#32 := by
  rw [← append_eq_zero_iff]
  unfold idxField colField
  rw [BitVec.extractLsb'_append_extractLsb'_eq_extractLsb' (by rfl)]

/-- `OP` is that of one of the commands, or reserved (R77). -/
theorem op_cases (op : Byte) :
    op = 0x01#8 ∨ op = 0x02#8 ∨ op = 0x03#8 ∨ op = 0x04#8 ∨ op = 0x05#8 ∨ op = 0x06#8 ∨ op.toNat = 0 ∨ 7 ≤ op.toNat := by
  bv_omega

/-- Settles O8: for each `OP` the fields its command requires to be zero. -/
theorem illegalWordsAreReservedOrNotZero : Obligations.IllegalWordsAreReservedOrNotZero := by
  intro w
  simp only [ne_eq, extract_8_48_eq_zero_iff, extract_0_56_eq_zero_iff]
  change (_ ↔ (opField w).toNat = 0 ∨ 7 ≤ (opField w).toNat) ∧ (_ ↔ (opField w = _ ∧ _) ∨ (opField w = _ ∧ ¬idxField w = _) ∨
    (opField w = _ ∧ _) ∨ (opField w = _ ∧ ¬idxField w = _) ∨ (opField w = _ ∧ _))
  obtain h | h | h | h | h | h | h := op_cases (opField w)
  · simp [decode, h, requireZero_eq_error]
  · simp [decode, h]
  · simp [decode, h, requireZero_eq_error]
  · simp [decode, h, requireZero_eq_error]
  · simp [decode, h, requireZero_eq_error]
  · simp [decode, h, requireZero_eq_error]
  · have hne : ∀ k : Byte, 1 ≤ k.toNat → k.toNat ≤ 6 → opField w ≠ k := by
      rintro k hk hk' rfl
      omega
    simp [decode, h, hne]

end Sys2Proof.Proofs
end

section
/-! PROOFS. The assembler (30_encoding.md R83, R84). -/

namespace Sys2Proof.Proofs

/-! ## Words as numbers -/

theorem toNat_append_eq_add {m n : Nat} (x : BitVec m) (y : BitVec n) : (x ++ y).toNat = x.toNat * 2 ^ n + y.toNat := by
  rw [BitVec.toNat_append, ← Nat.shiftLeft_add_eq_or_of_lt y.isLt, Nat.shiftLeft_eq]

theorem cmd64_toNat (op : Byte) (idx : Index) (col : Color) :
    (cmd64 op idx col).toNat = op.toNat * 2 ^ 56 + idx.toNat * 2 ^ 32 + col.toNat := by
  unfold cmd64
  rw [toNat_append_eq_add, toNat_append_eq_add]
  omega

/-- Channels that fit their bytes keep their values in the colour. -/
theorem colorOf_toNat {r g b w : Nat} (hr : r < 256) (hg : g < 256) (hb : b < 256) (hw : w < 256) :
    (colorOf r g b w).toNat = r * 2 ^ 24 + g * 2 ^ 16 + b * 2 ^ 8 + w := by
  unfold colorOf
  simp only [toNat_append_eq_add, BitVec.toNat_ofNat]
  omega

/-! ## Lines -/

theorem assemble_of_wellFormed {a : Asm} (h : a.wellFormed = true) : assemble a = some (encode a.expand) := if_pos h

theorem assemble_eq_none {a : Asm} (h : ¬a.wellFormed = true) : assemble a = none := if_neg h

theorem encode_wellFormed_iff (v : Nat) : (Asm.encode v).wellFormed = true ↔ v < 256 := decide_eq_true_iff

theorem update_wellFormed_iff (d : Nat) : (Asm.update d).wellFormed = true ↔ d < 2 ^ 32 := decide_eq_true_iff

theorem setLed_wellFormed_iff (i r g b w : Nat) :
    (Asm.setLed i r g b w).wellFormed = true ↔ i < 2 ^ 24 ∧ r < 256 ∧ g < 256 ∧ b < 256 ∧ w < 256 := by
  simp [Asm.wellFormed, indexFits, channelFits, and_assoc]

theorem fill_wellFormed_iff (r g b w : Nat) :
    (Asm.fill r g b w).wellFormed = true ↔ r < 256 ∧ g < 256 ∧ b < 256 ∧ w < 256 := by
  simp [Asm.wellFormed, channelFits, and_assoc]

/-- The 3-channel form of SET_LED is its 4-channel form without white (R84). -/
theorem assemble_setLedRgb (i r g b : Nat) : assemble (.setLedRgb i r g b) = assemble (.setLed i r g b 0) := by
  simp [assemble, Asm.wellFormed, Asm.expand, channelFits]

/-- The 3-channel form of FILL is its 4-channel form without white (R84). -/
theorem assemble_fillRgb (r g b : Nat) : assemble (.fillRgb r g b) = assemble (.fill r g b 0) := by
  simp [assemble, Asm.wellFormed, Asm.expand, channelFits]

/-- Settles O9: the word of a line that fits, as a number, is the sum of its fields. -/
theorem assemblerPlacesOperands : Obligations.AssemblerPlacesOperands := by
  refine ⟨fun v => ⟨fun hv => ⟨_, assemble_of_wellFormed ((encode_wellFormed_iff v).mpr hv), ?_⟩, fun hv => ?_⟩,
    fun i r g b w => ⟨fun hfit => ⟨_, assemble_of_wellFormed ((setLed_wellFormed_iff i r g b w).mpr hfit), ?_⟩,
      fun hfit => assemble_eq_none (mt (setLed_wellFormed_iff i r g b w).mp hfit), assemble_setLedRgb i r g b⟩,
    fun r g b w => ⟨fun hfit => ⟨_, assemble_of_wellFormed ((fill_wellFormed_iff r g b w).mpr hfit), ?_⟩,
      fun hfit => assemble_eq_none (mt (fill_wellFormed_iff r g b w).mp hfit), assemble_fillRgb r g b⟩,
    fun d => ⟨fun hd => ⟨_, assemble_of_wellFormed ((update_wellFormed_iff d).mpr hd), ?_⟩, fun hd => ?_⟩,
    rfl, rfl, rfl, rfl⟩
  · simp only [Asm.expand, encode, cmd64_toNat, toNat_append_eq_add, BitVec.toNat_ofNat]
    omega
  · exact assemble_eq_none (mt (encode_wellFormed_iff v).mp (by omega))
  · obtain ⟨hi, hr, hg, hb, hw⟩ := hfit
    simp only [Asm.expand, encode, cmd64_toNat, colorOf_toNat hr hg hb hw, BitVec.toNat_ofNat]
    omega
  · obtain ⟨hr, hg, hb, hw⟩ := hfit
    simp only [Asm.expand, encode, cmd64_toNat, colorOf_toNat hr hg hb hw, BitVec.toNat_ofNat]
    omega
  · simp only [Asm.expand, encode, cmd64_toNat, BitVec.toNat_ofNat]
    omega
  · exact assemble_eq_none (mt (update_wellFormed_iff d).mp (by omega))

end Sys2Proof.Proofs
end

section
/-! PROOFS. The construction parameters and the layout of the transmit buffer (00_scope.md, 41_frame.md R113). -/

namespace Sys2Proof.Proofs

open Sys2Proof.Machine

theorem params_ok_iff (p : Params) :
    p.ok = true ↔ 1 ≤ p.numLeds ∧ p.numLeds ≤ 2 ^ 24 - 1 ∧ 1 ≤ p.clockKHz ∧ p.oneByte ≠ p.zeroByte := by
  simp only [Params.ok, Bool.and_eq_true, decide_eq_true_eq, and_assoc]

theorem channels_rgb {c : Config} (h : c.mode = .rgb) : channels c = 3 := by simp [channels, h]

theorem channels_rgbw {c : Config} (h : c.mode = .rgbw) : channels c = 4 := by simp [channels, h]

/-- The longest frame for the header of this hardware (R10). -/
theorem txLen_le {c : Config} (h : c.headerLen = 64) : txLen c ≤ 64 + (2 ^ 24 - 1) * 32 := by
  obtain ⟨-, hmax, -, -⟩ := c.ok_iff
  unfold txLen
  rcases channels_cases c with hch | hch <;> rw [h, hch] <;> omega

theorem txLen_lt_of_header {c : Config} (h : c.headerLen = 64) : txLen c < 2 ^ 32 :=
  Nat.lt_of_le_of_lt (txLen_le h) (by decide)

/-- Settles O1: `txLen_le` bounds the transmit length. -/
theorem channelCountAndTransmitLength : Obligations.ChannelCountAndTransmitLength :=
  fun _ => ⟨channels_rgb, channels_rgbw, rfl, fun h => ⟨txLen_le h, txLen_lt_of_header h⟩⟩

/-- The largest RGBW strip (log 7). -/
def largestStrip : Config :=
  ⟨{ mode := .rgbw, numLeds := 16777215, clockKHz := 1, devicePath := "", oneByte := 1#8, zeroByte := 0#8 }, by decide⟩

/-- Refutes O2: an RGBW strip of `2^24 - 1` LEDs has a frame of `2^29 + 32` bytes. -/
theorem not_transmitLengthBelowTwoToThe29 : ¬ Obligations.TransmitLengthBelowTwoToThe29 := by
  intro h
  have hlen : txLen largestStrip = 2 ^ 29 + 32 := by decide
  have hlt := h largestStrip rfl
  omega

/-- Settles O3: `ConfigOK` as written in R197 is the check of `construct`. -/
theorem parametersOutsideConfigOkAreRefused : Obligations.ParametersOutsideConfigOkAreRefused := by
  intro p
  rw [← params_ok_iff]
  exact ⟨fun h => ⟨h, dif_pos h⟩, fun h => dif_neg h⟩

/-- Every address of the segments is that of a slot's byte: `slotAddr` inverted by division. -/
theorem exists_slotAddr_eq {c : Config} {a : Nat} (hlo : c.headerLen ≤ a) (hhi : a < txLen c) :
    ∃ i k j, i < c.numLeds ∧ k < channels c ∧ j < 8 ∧ slotAddr c i k j = a := by
  obtain ⟨n, rfl⟩ := Nat.exists_eq_add_of_le hlo
  have hch : 0 < channels c := by have := channels_cases c; omega
  have hslot : n / 8 < c.numLeds * channels c := by
    have hcomm : c.numLeds * 8 * channels c = c.numLeds * channels c * 8 := Nat.mul_right_comm _ _ _
    unfold txLen at hhi
    omega
  refine ⟨n / 8 / channels c, n / 8 % channels c, n % 8, ?_, Nat.mod_lt _ hch, Nat.mod_lt _ (by decide), ?_⟩
  · exact Nat.div_lt_of_lt_mul (by rwa [Nat.mul_comm])
  · unfold slotAddr
    rw [Nat.div_add_mod']
    omega

/-- Settles O15: range and separation are the laws of `slotAddr`, and every address is reached by `exists_slotAddr_eq`. -/
theorem slotAddressesTileTheSegments : Obligations.SlotAddressesTileTheSegments := by
  refine fun c => ⟨fun i k j hi hk hj => ?_, fun i k j i' k' j' hk hj hk' hj' h => slotAddr_split c hk hj hk' hj' h,
    fun a hlo hhi => exists_slotAddr_eq hlo hhi⟩
  have hlt := slotAddr_lt_txLen c hi hk hj
  exact ⟨header_le_slotAddr c i k j, hlt, fun h => hlt.trans (txLen_lt_of_header h)⟩

end Sys2Proof.Proofs
end

section
/-! PROOFS. What each command does where it is accepted, as one equation per command, and what every command does elsewhere. -/

namespace Sys2Proof.Proofs

open Sys2Proof.Machine

section idle
variable {s : State} (h : s.phase = .idle)
include h

theorem exec_encode_idle (v : Byte) :
    exec (.encode v) s = .next (s.respond codeOk (packBytes (enc s.cfg v))) := by
  simp only [exec, execEncode, whenAccepted_idle h]

theorem exec_setLed_idle (idx : Index) (col : Color) :
    exec (.setLed idx col) s = .next (
      if modeClash s.cfg col then s.respond codeModeError 0#64
      else if indexInRange s.cfg idx then (s.setLed idx.toNat col).respond codeOk 0#64
      else s.respond codeIndexError 0#64) := by
  simp only [exec, execSetLed, whenAccepted_idle h]

theorem exec_fill_idle (col : Color) :
    exec (.fill col) s = .next (
      if modeClash s.cfg col then s.respond codeModeError 0#64
      else (s.fillLeds col).respond codeOk 0#64) := by
  simp only [exec, execFill, whenAccepted_idle h]

theorem exec_build_idle : exec .build s = .next (s.frame.respond codeOk 0#64) := by
  simp only [exec, execBuild, whenAccepted_idle h]

theorem exec_update_idle (dly : Micros) :
    exec (.update dly) s = .next (((s.frame.setPendDelay dly).emitTxReq).setPhase .sending) := by
  simp only [exec, execUpdate, whenAccepted_idle h]

theorem exec_close_idle :
    exec .close s = .next (((s.emit .release).setPhase .closed).respond codeOk 0#64) := by
  simp only [exec, execClose, whenAccepted_idle h]

end idle

/-- On a block that is not open every command raises `NOT_OPEN` (R170). -/
theorem exec_notOpen {s : State} (h : s.phase = .unopened ∨ s.phase = .closed) (i : Instr) :
    exec i s = .next s.raiseNotOpen := by
  obtain ⟨f, hf⟩ := exec_accepted i
  rw [hf, whenAccepted_notOpen h]

/-- In every other phase every command is held (R176). -/
theorem exec_held {s : State} (hi : s.phase ≠ .idle) (hu : s.phase ≠ .unopened) (hc : s.phase ≠ .closed) (i : Instr) :
    exec i s = .fault (.held s.phase) := by
  obtain ⟨f, hf⟩ := exec_accepted i
  rw [hf, whenAccepted_held hi hu hc]

/-- The mode check, written out (R154). -/
theorem modeClash_iff (c : Config) (col : Color) : modeClash c col = true ↔ c.mode = .rgb ∧ col.extractLsb' 0 8 ≠ 0#8 := by
  simp only [modeClash, Bool.and_eq_true, decide_eq_true_eq]
  rfl

/-! ## The effects of a command in `IDLE` -/

/-- What a command can do to a block in `IDLE`: one constructor for each of its answers. -/
inductive IdleEffect (s : State) : Instr → State → Prop where
  | encode (v : Byte) : IdleEffect s (.encode v) (s.respond codeOk (packBytes (enc s.cfg v)))
  | setLedMode {idx : Index} {col : Color} (hm : modeClash s.cfg col = true) :
      IdleEffect s (.setLed idx col) (s.respond codeModeError 0#64)
  | setLedIndex {idx : Index} {col : Color} (hm : ¬modeClash s.cfg col = true) (hi : s.cfg.numLeds ≤ idx.toNat) :
      IdleEffect s (.setLed idx col) (s.respond codeIndexError 0#64)
  | setLed {idx : Index} {col : Color} (hm : ¬modeClash s.cfg col = true) (hi : idx.toNat < s.cfg.numLeds) :
      IdleEffect s (.setLed idx col) ((s.setLed idx.toNat col).respond codeOk 0#64)
  | fillMode {col : Color} (hm : modeClash s.cfg col = true) :
      IdleEffect s (.fill col) (s.respond codeModeError 0#64)
  | fill {col : Color} (hm : ¬modeClash s.cfg col = true) :
      IdleEffect s (.fill col) ((s.fillLeds col).respond codeOk 0#64)
  | build : IdleEffect s .build (s.frame.respond codeOk 0#64)
  | update (dly : Micros) :
      IdleEffect s (.update dly) (((s.frame.setPendDelay dly).emitTxReq).setPhase .sending)
  | close : IdleEffect s .close (((s.emit .release).setPhase .closed).respond codeOk 0#64)

/-- In `IDLE` every command makes a step, with one of its effects. -/
theorem exec_idle {s : State} (h : s.phase = .idle) (i : Instr) : ∃ t, exec i s = .next t ∧ IdleEffect s i t := by
  cases i with
  | encode v => exact ⟨_, exec_encode_idle h v, .encode v⟩
  | setLed idx col =>
    refine ⟨_, exec_setLed_idle h idx col, ?_⟩
    rw [indexInRange_eq_decide]
    split_ifs with hm hi
    · exact .setLedMode hm
    · exact .setLed hm (of_decide_eq_true hi)
    · exact .setLedIndex hm (by simpa using hi)
  | fill col =>
    refine ⟨_, exec_fill_idle h col, ?_⟩
    split_ifs with hm
    · exact .fillMode hm
    · exact .fill hm
  | build => exact ⟨_, exec_build_idle h, .build⟩
  | update dly => exact ⟨_, exec_update_idle h dly, .update dly⟩
  | close => exact ⟨_, exec_close_idle h, .close⟩

/-- A command that makes a step had an effect of its own in `IDLE`, or raised `NOT_OPEN`. -/
theorem exec_next {s t : State} {i : Instr} (h : exec i s = .next t) :
    (s.phase = .idle ∧ IdleEffect s i t) ∨ ((s.phase = .unopened ∨ s.phase = .closed) ∧ t = s.raiseNotOpen) := by
  obtain ⟨f, hf⟩ := exec_accepted i
  obtain ⟨hp, -⟩ | hn := whenAccepted_next (hf s ▸ h)
  · obtain ⟨t', ht', he⟩ := exec_idle hp i
    rw [ht'] at h
    cases h
    exact .inl ⟨hp, he⟩
  · exact .inr hn

end Sys2Proof.Proofs
end

section
/-! PROOFS. What a step can do with each input the phase takes, said once (10_state.md R23, 60_exceptions.md). -/

namespace Sys2Proof.Proofs

open Sys2Proof.Machine

/-- What a block can do with an input that its phase takes, `s` being the state without that input: one constructor for each
way. -/
inductive StepEffect (s : State) : Input → State → Prop where
  | notOpen (w : Word) (hp : s.phase = .unopened ∨ s.phase = .closed) : StepEffect s (.command w) s.raiseNotOpen
  | illegal {w : Word} {e : Illegal} (hp : s.phase = .idle) (hd : decode w = .error e) :
      StepEffect s (.command w) (s.respond codeIllegal 0#64)
  | command {w : Word} {i : Instr} {t : State} (hp : s.phase = .idle) (hd : decode w = .ok i) (he : IdleEffect s i t) :
      StepEffect s (.command w) t
  | resetAssert : StepEffect s .resetAssert s.assertReset
  | resetRelease (hp : s.phase = .reset) : StepEffect s .resetRelease s.releaseReset
  | openFailed (hp : s.phase = .opening) :
      StepEffect s (.openAck false) ((s.setPhase .unopened).respond codeOpenError 0#64)
  | openSucceeded (hp : s.phase = .opening) :
      StepEffect s (.openAck true) ((((s.fillLeds 0#32).frame).emitTxReq).setPhase .initSend)
  | constructed (ok : Bool) (hp : s.phase = .initSend) : StepEffect s (.txDone ok) (s.finish (sendCode ok))
  | sendFailed (hp : s.phase = .sending) : StepEffect s (.txDone false) (s.finish codeTransportError)
  | sendDelayed (hp : s.phase = .sending) (hd : s.pendDelay ≠ 0#32) :
      StepEffect s (.txDone true) ((s.emit (.delayReq s.pendDelay)).setPhase .delaying)
  | sendDone (hp : s.phase = .sending) (hd : s.pendDelay = 0#32) : StepEffect s (.txDone true) (s.finish codeOk)
  | delayDone (hp : s.phase = .delaying) : StepEffect s .delayDone (s.finish codeOk)

theorem runCommand_of_ok {w : Word} {i : Instr} (h : decode w = .ok i) (s : State) : runCommand w s = exec i s := by
  simp only [runCommand, h]

theorem runCommand_of_error {w : Word} {e : Illegal} (h : decode w = .error e) (s : State) :
    runCommand w s = execIllegal s := by
  simp only [runCommand, h]

theorem runCommand_notOpen {s : State} (h : s.phase = .unopened ∨ s.phase = .closed) (w : Word) :
    runCommand w s = .next s.raiseNotOpen := by
  cases hd : decode w with
  | ok i => rw [runCommand_of_ok hd, exec_notOpen h]
  | error e => exact (runCommand_of_error hd s).trans (whenAccepted_notOpen h _)

/-- A word that the phase takes makes a step. -/
theorem runCommand_effect {s : State} {w : Word} (h : s.phase.takes (.command w) = true) :
    ∃ t, runCommand w s = .next t ∧ StepEffect s (.command w) t := by
  simp only [Phase.takes, Bool.or_eq_true, decide_eq_true_eq, or_assoc] at h
  obtain hp | hn := h
  · cases hd : decode w with
    | ok i =>
      obtain ⟨t, ht, he⟩ := exec_idle hp i
      exact ⟨t, (runCommand_of_ok hd s).trans ht, .command hp hd he⟩
    | error e => exact ⟨_, (runCommand_of_error hd s).trans (whenAccepted_idle hp _), .illegal hp hd⟩
  · exact ⟨_, runCommand_notOpen hn w, .notOpen w hn⟩

/-- A finished send that the phase takes makes a step. -/
theorem runTxDone_effect {s : State} {ok : Bool} (h : s.phase.takes (.txDone ok) = true) :
    ∃ t, runInput (.txDone ok) s = .next t ∧ StepEffect s (.txDone ok) t := by
  simp only [Phase.takes, Bool.or_eq_true, decide_eq_true_eq] at h
  obtain hp | hp := h
  · exact ⟨_, by simp [runInput, hp, State.constructed], .constructed ok hp⟩
  · cases ok with
    | false => exact ⟨_, by simp [runInput, hp, State.updateSent], .sendFailed hp⟩
    | true =>
      by_cases hd : s.pendDelay = 0#32
      · exact ⟨_, by simp [runInput, hp, State.updateSent, hd], .sendDone hp hd⟩
      · exact ⟨_, by simp [runInput, hp, State.updateSent, hd], .sendDelayed hp hd⟩

/-- Every input that the phase takes makes a step, in one of the listed ways. -/
theorem runInput_effect {s : State} {inp : Input} (h : s.phase.takes inp = true) :
    ∃ t, runInput inp s = .next t ∧ StepEffect s inp t := by
  cases inp with
  | command w => exact runCommand_effect h
  | resetAssert => exact ⟨_, rfl, .resetAssert⟩
  | resetRelease => exact ⟨_, rfl, .resetRelease (of_decide_eq_true h)⟩
  | openAck ok =>
    cases ok with
    | false => exact ⟨_, rfl, .openFailed (of_decide_eq_true h)⟩
    | true => exact ⟨_, rfl, .openSucceeded (of_decide_eq_true h)⟩
  | txDone ok => exact runTxDone_effect h
  | delayDone => exact ⟨_, rfl, .delayDone (of_decide_eq_true h)⟩

/-- A step that takes an input: it exists, and it is one of the listed ways. -/
theorem exists_step_of_take {s : State} {inp : Input} {rest : List Input} (h : takeInput s.phase s.inputs = some (inp, rest)) :
    ∃ t, step s = .next t ∧ StepEffect (s.setInputs rest) inp t := by
  rw [step_of_take h]
  exact runInput_effect (s := s.setInputs rest) (takeInput_some h).1

/-- The step that takes an input is one of the listed ways. -/
theorem stepEffect_of_take {s t : State} {inp : Input} {rest : List Input}
    (ht : takeInput s.phase s.inputs = some (inp, rest)) (h : step s = .next t) : StepEffect (s.setInputs rest) inp t := by
  obtain ⟨t', ht', he⟩ := exists_step_of_take ht
  rw [ht'] at h
  cases h
  exact he

/-- A step takes an input, in one of the listed ways. -/
theorem stepEffect_of_step {s t : State} (h : step s = .next t) :
    ∃ inp rest, takeInput s.phase s.inputs = some (inp, rest) ∧ StepEffect (s.setInputs rest) inp t := by
  obtain ⟨inp, rest, ht, -⟩ := step_next h
  exact ⟨inp, rest, ht, stepEffect_of_take ht h⟩

end Sys2Proof.Proofs
end

section
/-! PROOFS. The encoding as a value: each bit recovered, and the packing of the ENCODE result (40_encoder.md). -/

namespace Sys2Proof.Proofs

open Sys2Proof.Machine

/-- The two constants differ, so a byte says which bit it stands for. -/
theorem bitByte_eq_oneByte_iff (c : Config) (b : Bool) : bitByte c b = c.oneByte ↔ b = true := by
  obtain ⟨-, -, -, hne⟩ := c.ok_iff
  cases b with
  | true => simp [bitByte]
  | false => simpa [bitByte] using hne.symm

/-- Each bit is recovered from its byte. -/
theorem getLsbD_iff_enc_getElem? (c : Config) (v : Byte) {j : Nat} (hj : j < 8) :
    v.getLsbD (7 - j) = true ↔ (enc c v)[j]? = some c.oneByte := by
  rw [enc_getElem?_of_lt c v hj, Option.some.injEq, bitByte_eq_oneByte_iff]

theorem enc_injective (c : Config) : Function.Injective (enc c) := by
  intro v v' h
  apply BitVec.eq_of_getLsbD_eq
  intro n hn
  have hbit := (getLsbD_iff_enc_getElem? c v (j := 7 - n) (by omega)).trans
    (h ▸ (getLsbD_iff_enc_getElem? c v' (j := 7 - n) (by omega)).symm)
  rw [show 7 - (7 - n) = n by omega] at hbit
  exact Bool.eq_iff_iff.mpr hbit

/-- Settles O12: each bit is read off its byte. -/
theorem encoderIsOneToOne : Obligations.EncoderIsOneToOne :=
  fun c v => ⟨fun _ hj => getLsbD_iff_enc_getElem? c v hj, fun _ h => enc_injective c h⟩

/-! ## Packing -/

/-- One byte shifted in, where the eight bits shifted out are zero. -/
theorem shiftIn_toNat {acc : Word} (b : Byte) (h : acc.toNat < 2 ^ 56) :
    ((acc <<< 8) ||| b.setWidth 64).toNat = acc.toNat * 2 ^ 8 + b.toNat := by
  have hb : b.toNat < 2 ^ 8 := b.isLt
  rw [BitVec.toNat_or, BitVec.toNat_shiftLeft, BitVec.toNat_setWidth_of_le (by decide), Nat.shiftLeft_eq,
    Nat.mod_eq_of_lt (by omega), ← Nat.shiftLeft_eq, ← Nat.shiftLeft_add_eq_or_of_lt hb, Nat.shiftLeft_eq]

/-- Bytes shifted in after others, as long as no bit is shifted out: a numeral in base `2^8`. -/
theorem foldl_shiftIn_toNat {bs : List Byte} {acc : Word} {k : Nat} (hk : bs.length + k ≤ 8) (hacc : acc.toNat < 2 ^ (8 * k)) :
    (bs.foldl (fun (acc : Word) (b : Byte) => (acc <<< 8) ||| b.setWidth 64) acc).toNat =
      bs.foldl (fun n b => n * 2 ^ 8 + b.toNat) acc.toNat := by
  induction bs generalizing acc k with
  | nil => rfl
  | cons b bs ih =>
    rw [List.length_cons] at hk
    have h56 : acc.toNat < 2 ^ 56 := hacc.trans_le (Nat.pow_le_pow_right (by decide) (by omega))
    have hstep := shiftIn_toNat b h56
    have hb : b.toNat < 2 ^ 8 := b.isLt
    rw [List.foldl_cons, List.foldl_cons, ← hstep]
    refine ih (k := k + 1) (by omega) ?_
    rw [hstep, Nat.mul_add, Nat.pow_add]
    omega

/-- The packed value as the sum of its bytes, the first one highest (R105). -/
theorem packBytes_toNat (e0 e1 e2 e3 e4 e5 e6 e7 : Byte) :
    (packBytes [e0, e1, e2, e3, e4, e5, e6, e7]).toNat =
      e0.toNat * 2 ^ 56 + e1.toNat * 2 ^ 48 + e2.toNat * 2 ^ 40 + e3.toNat * 2 ^ 32 +
        e4.toNat * 2 ^ 24 + e5.toNat * 2 ^ 16 + e6.toNat * 2 ^ 8 + e7.toNat := by
  unfold packBytes
  rw [foldl_shiftIn_toNat (k := 0) (by simp) (by decide)]
  simp only [List.foldl_cons, List.foldl_nil, BitVec.toNat_ofNat]
  omega

/-- Byte `j` from the top of eight packed bytes is the `j`-th of them. -/
theorem packBytes_extract (e0 e1 e2 e3 e4 e5 e6 e7 : Byte) {j : Nat} (hj : j < 8) :
    some ((packBytes [e0, e1, e2, e3, e4, e5, e6, e7]).extractLsb' (56 - 8 * j) 8) =
      [e0, e1, e2, e3, e4, e5, e6, e7][j]? := by
  have hsum := packBytes_toNat e0 e1 e2 e3 e4 e5 e6 e7
  interval_cases j <;>
    · refine congrArg some (BitVec.eq_of_toNat_eq ?_)
      rw [BitVec.extractLsb'_toNat, Nat.shiftRight_eq_div_pow, hsum]
      omega

/-- The eight bytes of an encoding, written out. -/
theorem enc_eq (c : Config) (v : Byte) :
    enc c v = [bitByte c (v.getLsbD 7), bitByte c (v.getLsbD 6), bitByte c (v.getLsbD 5), bitByte c (v.getLsbD 4),
      bitByte c (v.getLsbD 3), bitByte c (v.getLsbD 2), bitByte c (v.getLsbD 1), bitByte c (v.getLsbD 0)] := rfl

theorem packBytes_enc_extract (c : Config) (v : Byte) {j : Nat} (hj : j < 8) :
    some ((packBytes (enc c v)).extractLsb' (56 - 8 * j) 8) = (enc c v)[j]? := by
  rw [enc_eq]
  exact packBytes_extract _ _ _ _ _ _ _ _ hj

/-- Settles O13: the slices and the sum of eight packed bytes. -/
theorem encodeResultPacking : Obligations.EncodeResultPacking := by
  refine fun c v => ⟨fun j hj => packBytes_enc_extract c v hj, fun e0 e1 e2 e3 e4 e5 e6 e7 h => ?_⟩
  rw [h]
  exact packBytes_toNat ..

/-- Settles O14: the answer is the packed encoding, and each slice of it the byte of its bit. -/
theorem encodeAnswersTheEncoding : Obligations.EncodeAnswersTheEncoding := by
  intro s v hs
  refine ⟨packBytes (enc s.cfg v), exec_encode_idle hs v, fun j hj => ?_⟩
  rw [← bitByte_eq, ← Option.some.injEq, packBytes_enc_extract s.cfg v hj, enc_getElem?_of_lt s.cfg v hj]

end Sys2Proof.Proofs
end

section
/-! PROOFS. The frame function (41_frame.md): what the buffer reads as afterwards, and the bytes of the frame. -/

namespace Sys2Proof.Proofs

open Sys2Proof.Machine

/-! ## Reads after the frame function -/

/-- Every LED-segment byte is one of the two constants afterwards (R112). -/
theorem read_frame_segment {s : State} (h : Memory.wf s.txbuf) {a : Nat} (hlo : s.cfg.headerLen ≤ a)
    (hhi : a < txLen s.cfg) :
    Memory.read s.frame.txbuf a = s.cfg.oneByte ∨ Memory.read s.frame.txbuf a = s.cfg.zeroByte := by
  obtain ⟨i, k, j, hi, hk, hj, rfl⟩ := exists_slotAddr_eq hlo hhi
  rw [State.read_frame_slot h hi hk hj]
  exact bitByte_cases ..

/-- Every address outside the LED segments reads as before (R112). -/
theorem read_frame_outside (s : State) {a : Nat} (h : a < s.cfg.headerLen ∨ txLen s.cfg ≤ a) :
    Memory.read s.frame.txbuf a = Memory.read s.txbuf a := by
  refine State.read_frame_other s fun i k j hi hk hj ha => ?_
  have hlo := header_le_slotAddr s.cfg i k j
  have hhi := slotAddr_lt_txLen s.cfg hi hk hj
  omega

theorem chan_eq_ite (x : Color) (k : Nat) :
    chan x k = if k = 0 then green x else if k = 1 then red x else if k = 2 then blue x else white x := by
  unfold chan
  split <;> simp_all

/-- Settles O16: `State.read_frame_slot`, the channel written out. -/
theorem framePlacesEveryChannel : Obligations.FramePlacesEveryChannel := by
  intro s i k j hwf hi hk hj
  exact (State.read_frame_slot hwf hi hk hj).trans (by rw [bitByte_eq, chan_eq_ite]; rfl)

/-- Settles O17: only the buffer is set, and its addresses are those of the segments. -/
theorem frameWritesOnlyTheSegments : Obligations.FrameWritesOnlyTheSegments :=
  fun s hwf => ⟨rfl, fun _ h => read_frame_outside s h, fun _ hlo hhi => read_frame_segment hwf hlo hhi⟩

/-- In a block that meets the invariant every header byte is zero (R29): no cell lies there. -/
theorem read_header_of_inv {s : State} (h : s.Inv) {a : Nat} (ha : a < s.cfg.headerLen) :
    Memory.read s.txbuf a = 0x00#8 := by
  refine Memory.read_of_forall_ne fun c hc hca => ?_
  obtain ⟨hlo, -⟩ := h.txbuf_range c hc
  omega

/-! ## The bytes of the frame -/

/-- The numbers below `n * m`, as `n` blocks of `m`. -/
theorem map_range_mul {α : Type} (f : Nat → α) (n m : Nat) :
    (List.range (n * m)).map f = (List.range n).flatMap fun i => (List.range m).map fun j => f (i * m + j) := by
  induction n with
  | zero => simp
  | succ n ih => simp [Nat.succ_mul, List.range_add, List.range_succ, ih, Function.comp_def]

/-- The segment of one LED: the encodings of its channels in wire order (R115). -/
def segment (c : Config) (x : Color) : List Byte := (List.range (channels c)).flatMap fun k => enc c (chan x k)

theorem segment_length (c : Config) (x : Color) : (segment c x).length = 8 * channels c := by
  simp [segment, List.length_flatMap, Nat.mul_comm]

/-- The eight bytes of a slot after the frame function. -/
theorem map_read_frame_slot {s : State} (h : Memory.wf s.txbuf) {i k : Nat} (hi : i < s.cfg.numLeds)
    (hk : k < channels s.cfg) :
    (List.range 8).map (fun j => Memory.read s.frame.txbuf (slotAddr s.cfg i k j)) = enc s.cfg (chan (led s i) k) := by
  refine List.map_congr_left fun j hj => ?_
  exact State.read_frame_slot h hi hk (List.mem_range.mp hj)

/-- The bytes of some slots of one LED after the frame function. -/
theorem map_read_frame_slots {s : State} (h : Memory.wf s.txbuf) {i n : Nat} (hi : i < s.cfg.numLeds)
    (hn : n ≤ channels s.cfg) :
    (List.range (n * 8)).map (fun b => Memory.read s.frame.txbuf (s.cfg.headerLen + i * channels s.cfg * 8 + b)) =
      (List.range n).flatMap fun k => enc s.cfg (chan (led s i) k) := by
  rw [map_range_mul]
  refine List.flatMap_congr fun k hk => ?_
  rw [← map_read_frame_slot h hi ((List.mem_range.mp hk).trans_le hn)]
  refine List.map_congr_left fun j _ => ?_
  rw [slotAddr, Nat.add_mul, ← Nat.add_assoc, ← Nat.add_assoc]

/-- The LED store as the entries at its indices. -/
theorem leds_eq_map_led {s : State} (h : s.leds.length = s.cfg.numLeds) : s.leds = (List.range s.cfg.numLeds).map (led s) := by
  refine List.ext_getElem (by simpa using h) fun i hi _ => ?_
  rw [List.getElem_map, List.getElem_range, led, List.getD_eq_getElem _ _ hi]

/-- R115: the frame is the header of zeros and then the segments of the LEDs in order. -/
theorem txFrame_frame_eq {s : State} (h : s.Inv) :
    txFrame s.frame = List.replicate s.cfg.headerLen 0x00#8 ++ s.leds.flatMap (segment s.cfg) := by
  have hheader : (List.range s.cfg.headerLen).map (Memory.read s.frame.txbuf) = List.replicate s.cfg.headerLen 0x00#8 := by
    refine List.eq_replicate_iff.mpr ⟨by simp, ?_⟩
    simp only [List.mem_map, List.mem_range, forall_exists_index, and_imp, forall_apply_eq_imp_iff₂]
    intro a ha
    rw [read_frame_outside s (.inl ha), read_header_of_inv h ha]
  have hsegments : (List.range (s.cfg.numLeds * (channels s.cfg * 8))).map
      (fun b => Memory.read s.frame.txbuf (s.cfg.headerLen + b)) = s.leds.flatMap (segment s.cfg) := by
    rw [map_range_mul, leds_eq_map_led h.leds_length, List.flatMap_map]
    refine List.flatMap_congr fun i hi => ?_
    rw [segment, ← map_read_frame_slots h.txbuf_wf (List.mem_range.mp hi) le_rfl]
    simp only [Nat.add_assoc, Nat.mul_assoc]
  rw [← hheader, ← hsegments, txFrame, State.frame_cfg, txLen, Nat.mul_assoc, Nat.mul_comm 8, List.range_add, List.map_append,
    List.map_map]
  rfl

/-- Settles O18: `txFrame_frame_eq`, and the lengths of its parts. -/
theorem frameIsHeaderThenSegments : Obligations.FrameIsHeaderThenSegments :=
  fun s h => ⟨txFrame_frame_eq h, txFrame_length s.frame, segment_length s.cfg⟩

/-- Settles O19: the first three slots of the LED's segment. -/
theorem greenRedBlueOrder : Obligations.GreenRedBlueOrder := by
  intro s i hwf hi hled
  have hthree : 3 ≤ channels s.cfg := by have := channels_cases s.cfg; omega
  have hgreen : chan 0x01020300#32 0 = 2#8 := by decide
  have hred : chan 0x01020300#32 1 = 1#8 := by decide
  have hblue : chan 0x01020300#32 2 = 3#8 := by decide
  refine (map_read_frame_slots hwf hi hthree).trans ?_
  simp [hled, List.range_succ, hgreen, hred, hblue]

/-! ## The clear frame -/

theorem chan_zero (k : Nat) : chan 0#32 k = 0#8 := by
  rw [chan_eq_ite]
  split_ifs <;> decide

theorem bitByte_chan_zero (c : Config) (k n : Nat) : bitByte c ((chan 0#32 k).getLsbD n) = c.zeroByte := by
  rw [chan_zero, BitVec.getLsbD_zero, bitByte_eq, if_neg Bool.false_ne_true]

theorem segment_zero (c : Config) : segment c 0#32 = List.replicate (8 * channels c) c.zeroByte := by
  refine List.eq_replicate_iff.mpr ⟨segment_length c 0#32, fun b hb => ?_⟩
  simp only [segment, enc, List.mem_flatMap, List.mem_map] at hb
  obtain ⟨k, -, j, -, rfl⟩ := hb
  exact bitByte_chan_zero c k (7 - j)

/-- The frame of LEDs that are all off (R120). -/
theorem txFrame_frame_of_leds_zero {s : State} (h : s.Inv) (hoff : ∀ x ∈ s.leds, x = 0x00000000#32) :
    txFrame s.frame = List.replicate s.cfg.headerLen 0x00#8 ++
      List.replicate (s.cfg.numLeds * 8 * channels s.cfg) s.cfg.zeroByte := by
  have hleds : s.leds = List.replicate s.cfg.numLeds 0#32 := List.eq_replicate_iff.mpr ⟨h.leds_length, hoff⟩
  rw [txFrame_frame_eq h, hleds, List.flatMap_replicate, segment_zero, List.flatten_replicate_replicate, Nat.mul_assoc]

/-- Settles O20: `txFrame_frame_of_leds_zero`. -/
theorem clearFrame : Obligations.ClearFrame := fun _ h hoff => txFrame_frame_of_leds_zero h hoff

/-- Where every LED is off, every LED-segment byte is `ZERO_BYTE` afterwards. -/
theorem read_frame_of_led_zero {s : State} (h : Memory.wf s.txbuf) (hoff : ∀ i, i < s.cfg.numLeds → led s i = 0#32) {a : Nat}
    (hlo : s.cfg.headerLen ≤ a) (hhi : a < txLen s.cfg) : Memory.read s.frame.txbuf a = s.cfg.zeroByte := by
  obtain ⟨i, k, j, hi, hk, hj, rfl⟩ := exists_slotAddr_eq hlo hhi
  rw [State.read_frame_slot h hi hk hj, hoff i hi, bitByte_chan_zero]

/-! ## One frame for one LED store -/

/-- The frame function gives equal buffers, as data, to blocks with one configuration and one LED store whose buffers read alike
outside the segments. -/
theorem frame_txbuf_congr {s t : State} (hs : Memory.wf s.txbuf) (ht : Memory.wf t.txbuf) (hcfg : t.cfg = s.cfg)
    (hleds : t.leds = s.leds)
    (hout : ∀ a, a < s.cfg.headerLen ∨ txLen s.cfg ≤ a → Memory.read t.txbuf a = Memory.read s.txbuf a) :
    t.frame.txbuf = s.frame.txbuf := by
  refine Memory.ext_of_read (State.frame_wf ht) (State.frame_wf hs) fun a => ?_
  by_cases ha : a < s.cfg.headerLen ∨ txLen s.cfg ≤ a
  · rw [read_frame_outside t (by rwa [hcfg]), read_frame_outside s ha, hout a ha]
  · obtain ⟨i, k, j, hi, hk, hj, rfl⟩ := exists_slotAddr_eq (c := s.cfg) (a := a) (by omega) (by omega)
    rw [State.read_frame_slot hs hi hk hj, ← hcfg, State.read_frame_slot ht (hcfg ▸ hi) (hcfg ▸ hk) hj, led_congr hleds]

/-- Settles O22: the second frame function finds the LED store of the first, and outside the segments its bytes. -/
theorem buildTwiceIsBuildOnce : Obligations.BuildTwiceIsBuildOnce := by
  intro s t u hwf hst htu
  obtain ⟨hp, he⟩ | ⟨hp, rfl⟩ := exec_next hst
  · cases he
    rw [exec_build_idle (s := s.frame.respond codeOk 0#64) hp] at htu
    cases htu
    exact frame_txbuf_congr hwf (State.frame_wf hwf) rfl rfl fun a ha => read_frame_outside s ha
  · rw [exec_notOpen (s := s.raiseNotOpen) hp] at htu
    cases htu
    rfl

/-- Settles O28: the frame of each UPDATE is `txFrame_frame_eq`'s, which speaks of the LED store and the configuration only. -/
theorem sameLedsSendTheSameFrame : Obligations.SameLedsSendTheSameFrame := by
  intro s t d e hs ht hcfg hleds hps hpt
  have hframe : txFrame t.frame = txFrame s.frame := by
    rw [txFrame_frame_eq hs, txFrame_frame_eq ht, hcfg, hleds]
  refine ⟨txFrame s.frame, _, _, exec_update_idle hps d, rfl, exec_update_idle hpt e, ?_⟩
  rw [← hframe]
  rfl

end Sys2Proof.Proofs
end

section
/-! PROOFS. The invariant (10_state.md): what each state operation does to it, and every step. -/

namespace Sys2Proof.Proofs

open Sys2Proof.Machine

/-! ## The invariant through the state's operations -/

theorem inv_setInputs {s : State} (h : s.Inv) (is : List Input) : (s.setInputs is).Inv :=
  ⟨h.leds_length, h.rgb_white, h.txbuf_wf, h.txbuf_range, h.fault_phase, h.delaying⟩

theorem inv_emit {s : State} (h : s.Inv) (e : Event) : (s.emit e).Inv :=
  ⟨h.leds_length, h.rgb_white, h.txbuf_wf, h.txbuf_range, h.fault_phase, h.delaying⟩

theorem inv_respond {s : State} (h : s.Inv) (code : Byte) (data : Word) : (s.respond code data).Inv := inv_emit h _

/-- A block that is open may go to any phase, to `DELAYING` only with a delay to wait for. -/
theorem inv_setPhase {s : State} (h : s.Inv) (p : Phase) (hn : ¬(s.phase = .unopened ∨ s.phase = .closed))
    (hd : p = .delaying → s.pendDelay ≠ 0#32) : (s.setPhase p).Inv where
  leds_length := h.leds_length
  rgb_white := h.rgb_white
  txbuf_wf := h.txbuf_wf
  txbuf_range := h.txbuf_range
  fault_phase hf := absurd (h.fault_phase hf) hn
  delaying := hd

theorem inv_setPendDelay {s : State} (h : s.Inv) (hp : s.phase ≠ .delaying) (d : Micros) : (s.setPendDelay d).Inv :=
  ⟨h.leds_length, h.rgb_white, h.txbuf_wf, h.txbuf_range, h.fault_phase, fun hd => absurd hd hp⟩

theorem inv_frame {s : State} (h : s.Inv) : s.frame.Inv where
  leds_length := h.leds_length
  rgb_white := h.rgb_white
  txbuf_wf := State.frame_wf h.txbuf_wf
  txbuf_range c hc := (State.mem_frame_range hc).elim id (h.txbuf_range c)
  fault_phase := h.fault_phase
  delaying := h.delaying

/-- A new LED store of the right size, without white on an RGB strip. -/
theorem inv_setLeds {s : State} (h : s.Inv) {l : List Color} (hlen : l.length = s.cfg.numLeds)
    (hwhite : s.cfg.mode = .rgb → ∀ x ∈ l, white x = 0#8) : (s.setLeds l).Inv :=
  ⟨hlen, hwhite, h.txbuf_wf, h.txbuf_range, h.fault_phase, h.delaying⟩

/-- A colour that passes the mode check has no white on an RGB strip (R154). -/
theorem white_eq_zero_of_not_modeClash {c : Config} {col : Color} (h : ¬modeClash c col = true) (hrgb : c.mode = .rgb) :
    white col = 0#8 := by
  by_contra hne
  exact h ((modeClash_iff c col).mpr ⟨hrgb, hne⟩)

theorem inv_setLed {s : State} (h : s.Inv) (i : Nat) {col : Color} (hm : ¬modeClash s.cfg col = true) :
    (s.setLed i col).Inv := by
  refine inv_setLeds h ((List.length_set ..).trans h.leds_length) fun hrgb x hx => ?_
  rcases List.mem_or_eq_of_mem_set hx with hx | rfl
  · exact h.rgb_white hrgb x hx
  · exact white_eq_zero_of_not_modeClash hm hrgb

theorem inv_fillLeds {s : State} (h : s.Inv) {col : Color} (hm : ¬modeClash s.cfg col = true) : (s.fillLeds col).Inv := by
  refine inv_setLeds h List.length_replicate fun hrgb x hx => ?_
  rw [List.eq_of_mem_replicate hx]
  exact white_eq_zero_of_not_modeClash hm hrgb

/-- A colour without white passes the mode check in either mode. -/
theorem not_modeClash_zero (c : Config) : ¬modeClash c 0#32 = true := by
  rw [modeClash_iff]
  exact fun h => h.2 (by decide)

theorem inv_raiseNotOpen {s : State} (h : s.Inv) (hp : s.phase = .unopened ∨ s.phase = .closed) : s.raiseNotOpen.Inv :=
  ⟨h.leds_length, h.rgb_white, h.txbuf_wf, h.txbuf_range, fun _ => hp, h.delaying⟩

theorem inv_finish {s : State} (h : s.Inv) (hn : ¬(s.phase = .unopened ∨ s.phase = .closed)) (code : Byte) :
    (s.finish code).Inv :=
  inv_respond (inv_setPhase h .idle hn nofun) _ _

theorem inv_resetOf (c : Config) : (State.resetOf c).Inv where
  leds_length := List.length_replicate
  rgb_white _ x hx := by rw [List.eq_of_mem_replicate hx]; decide
  txbuf_wf := Memory.wf_nil
  txbuf_range _ hx := absurd hx List.not_mem_nil
  fault_phase hf := absurd hf Bool.false_ne_true
  delaying := nofun

/-! ## The invariant through the effects -/

theorem inv_of_idleEffect {s t : State} {i : Instr} (h : s.Inv) (hp : s.phase = .idle) (he : IdleEffect s i t) : t.Inv := by
  have hn : ¬(s.phase = .unopened ∨ s.phase = .closed) := by simp [hp]
  cases he with
  | encode v => exact inv_respond h _ _
  | setLedMode _ => exact inv_respond h _ _
  | setLedIndex _ _ => exact inv_respond h _ _
  | setLed hm _ => exact inv_respond (inv_setLed h _ hm) _ _
  | fillMode _ => exact inv_respond h _ _
  | fill hm => exact inv_respond (inv_fillLeds h hm) _ _
  | build => exact inv_respond (inv_frame h) _ _
  | update dly =>
    have hd : s.phase ≠ .delaying := by simp [hp]
    exact inv_setPhase (inv_emit (inv_setPendDelay (inv_frame h) hd dly) _) .sending hn nofun
  | close => exact inv_respond (inv_setPhase (inv_emit h _) .closed hn nofun) _ _

theorem inv_of_stepEffect {s t : State} {inp : Input} (h : s.Inv) (he : StepEffect s inp t) : t.Inv := by
  cases he with
  | notOpen w hp => exact inv_raiseNotOpen h hp
  | illegal hp hd => exact inv_respond h _ _
  | command hp hd he => exact inv_of_idleEffect h hp he
  | resetAssert => exact inv_setInputs (inv_resetOf s.cfg) _
  | resetRelease hp => exact inv_setPhase (inv_emit h _) .opening (by simp [hp]) nofun
  | openFailed hp => exact inv_respond (inv_setPhase h .unopened (by simp [hp]) nofun) _ _
  | openSucceeded hp =>
    exact inv_setPhase (inv_emit (inv_frame (inv_fillLeds h (not_modeClash_zero _))) _) .initSend (by simp [hp]) nofun
  | constructed ok hp => exact inv_finish h (by simp [hp]) _
  | sendFailed hp => exact inv_finish h (by simp [hp]) _
  | sendDelayed hp hd => exact inv_setPhase (inv_emit h _) .delaying (by simp [hp]) fun _ => hd
  | sendDone hp hd => exact inv_finish h (by simp [hp]) _
  | delayDone hp => exact inv_finish h (by simp [hp]) _

theorem inv_of_step {s t : State} (h : s.Inv) (hst : step s = .next t) : t.Inv := by
  obtain ⟨inp, rest, -, he⟩ := stepEffect_of_step hst
  exact inv_of_stepEffect (inv_setInputs h rest) he

/-- Settles O53: each effect is made of operations that keep the invariant. -/
theorem stepKeepsTheInvariant : Obligations.StepKeepsTheInvariant := fun _ _ => inv_of_step

/-- Settles O52: `inv_resetOf`, of which the model's reset state is one case. -/
theorem resetMeetsTheInvariant : Obligations.ResetMeetsTheInvariant := ⟨inv_resetOf Config.given, inv_resetOf⟩

/-! ## Runs -/

/-- What holds of a state and is kept by every step holds of every state reached from it. -/
theorem reaches_induction {P : State → Prop} (hstep : ∀ s t, P s → step s = .next t → P t) {s t : State} (hs : P s)
    (h : Reaches s t) : P t := by
  induction h with
  | refl => exact hs
  | step _ hu ih => exact hstep _ _ ih hu

end Sys2Proof.Proofs
end

section
/-! PROOFS. Every event of every history is legal (60_exceptions.md R165, 41_frame.md R112, 42_transport.md R128). -/

namespace Sys2Proof.Proofs

open Sys2Proof.Machine

theorem histLegal_emit {s : State} {e : Event} (h : s.histLegal) (he : Event.legal s.cfg e) : (s.emit e).histLegal := by
  intro x hx
  rw [State.emit_hist, List.mem_append, List.mem_singleton] at hx
  rcases hx with hx | rfl
  · exact h x hx
  · exact he

/-- An answer without data is legal if its code is a listed one. -/
theorem legal_resp_zero (c : Config) {code : Byte} (h : code.toNat ≤ 6) : Event.legal c (.resp code 0#64) := ⟨h, fun _ => rfl⟩

theorem legal_resp_ok (c : Config) (data : Word) : Event.legal c (.resp codeOk data) :=
  ⟨by decide, fun hne => absurd rfl hne⟩

/-- A frame handed over after the frame function is legal: its header is zero, and its segments hold the two constants. -/
theorem legal_txReq_frame {s : State} (h : s.Inv) : Event.legal s.cfg (.txReq (txFrame s.frame)) := by
  refine ⟨txFrame_length s.frame, fun a ha => ?_, fun a hlo hhi => ?_⟩
  · have hlt : a < txLen s.cfg := ha.trans_le (Nat.le_add_right ..)
    rw [txFrame_getElem? s.frame hlt, read_header_of_inv (inv_frame h) ha]
  · rw [txFrame_getElem? s.frame hhi, Option.some.injEq, Option.some.injEq]
    exact read_frame_segment h.txbuf_wf hlo hhi

theorem histLegal_of_idleEffect {s t : State} {i : Instr} (hinv : s.Inv) (h : s.histLegal) (he : IdleEffect s i t) :
    t.histLegal := by
  cases he with
  | encode v => exact histLegal_emit h (legal_resp_ok _ _)
  | setLedMode _ => exact histLegal_emit h (legal_resp_zero _ (by decide))
  | setLedIndex _ _ => exact histLegal_emit h (legal_resp_zero _ (by decide))
  | setLed _ _ => exact histLegal_emit (s := s.setLed _ _) h (legal_resp_ok _ _)
  | fillMode _ => exact histLegal_emit h (legal_resp_zero _ (by decide))
  | fill _ => exact histLegal_emit (s := s.fillLeds _) h (legal_resp_ok _ _)
  | build => exact histLegal_emit (s := s.frame) h (legal_resp_ok _ _)
  | update dly => exact histLegal_emit (s := s.frame.setPendDelay dly) h (legal_txReq_frame hinv)
  | close =>
    have hrelease : (s.emit .release).histLegal := histLegal_emit h trivial
    exact histLegal_emit (s := (s.emit .release).setPhase .closed) hrelease (legal_resp_ok _ _)

theorem histLegal_finish {s : State} (h : s.histLegal) {code : Byte} (hcode : code.toNat ≤ 6) : (s.finish code).histLegal :=
  histLegal_emit (s := s.setPhase .idle) h (legal_resp_zero _ hcode)

theorem sendCode_le (ok : Bool) : (sendCode ok).toNat ≤ 6 := by cases ok <;> decide

theorem histLegal_of_stepEffect {s t : State} {inp : Input} (hinv : s.Inv) (h : s.histLegal) (he : StepEffect s inp t) :
    t.histLegal := by
  cases he with
  | notOpen w hp => exact histLegal_emit (s := s.setFault true) h (legal_resp_zero _ (by decide))
  | illegal hp hd => exact histLegal_emit h (legal_resp_zero _ (by decide))
  | command hp hd he => exact histLegal_of_idleEffect hinv h he
  | resetAssert => exact fun e he => absurd he List.not_mem_nil
  | resetRelease hp => exact histLegal_emit h rfl
  | openFailed hp => exact histLegal_emit (s := s.setPhase .unopened) h (legal_resp_zero _ (by decide))
  | openSucceeded hp =>
    exact histLegal_emit (s := (s.fillLeds 0#32).frame) h (legal_txReq_frame (inv_fillLeds hinv (not_modeClash_zero _)))
  | constructed ok hp => exact histLegal_finish h (sendCode_le ok)
  | sendFailed hp => exact histLegal_finish h (by decide)
  | sendDelayed hp hd => exact histLegal_emit h hd
  | sendDone hp hd => exact histLegal_finish h (by decide)
  | delayDone hp => exact histLegal_finish h (by decide)

theorem histLegal_of_step {s t : State} (hinv : s.Inv) (h : s.histLegal) (hst : step s = .next t) : t.histLegal := by
  obtain ⟨inp, rest, -, he⟩ := stepEffect_of_step hst
  exact histLegal_of_stepEffect (inv_setInputs hinv rest) h he

/-- Settles O58: each effect emits legal events only; over a run the invariant goes along. -/
theorem everyEventIsLegal : Obligations.EveryEventIsLegal := by
  refine ⟨fun s t => histLegal_of_step, fun c offered t h => ?_⟩
  have hreset : ((State.resetOf c).setInputs offered).Inv ∧ ((State.resetOf c).setInputs offered).histLegal :=
    ⟨inv_setInputs (inv_resetOf c) offered, fun e he => absurd he List.not_mem_nil⟩
  refine (reaches_induction (P := fun s => s.Inv ∧ s.histLegal) (fun s u hs hu => ?_) hreset h).2
  exact ⟨inv_of_step hs.1 hu, histLegal_of_step hs.1 hs.2 hu⟩

end Sys2Proof.Proofs
end

section
/-! PROOFS. The outstanding request (70_reset_and_hazards.md R200), and the configuration (10_state.md R21). -/

namespace Sys2Proof.Proofs

open Sys2Proof.Machine

/-- A block that waits for nobody but the host has no request outstanding. -/
theorem asked_of_not_waiting {s : State} (h : s.phase = .idle ∨ s.phase = .unopened ∨ s.phase = .closed) : s.asked := by
  constructor <;> intro hp <;> rcases h with h | h | h <;> simp [h] at hp

theorem asked_of_idleEffect {s t : State} {i : Instr} (hp : s.phase = .idle) (he : IdleEffect s i t) : t.asked := by
  cases he with
  | update dly =>
    exact ⟨nofun, nofun, fun _ => ⟨s.hist, rfl⟩, nofun⟩
  | close => exact asked_of_not_waiting (.inr (.inr rfl))
  | encode | setLedMode | setLedIndex | setLed | fillMode | fill | build => exact asked_of_not_waiting (.inl hp)

theorem asked_of_stepEffect {s t : State} {inp : Input} (h : s.asked) (he : StepEffect s inp t) : t.asked := by
  cases he with
  | notOpen w hp => exact asked_of_not_waiting (.inr hp)
  | illegal hp hd => exact asked_of_not_waiting (.inl hp)
  | command hp hd he => exact asked_of_idleEffect hp he
  | resetAssert =>
    exact ⟨fun _ => rfl, nofun, nofun, nofun⟩
  | resetRelease hp =>
    have hhist : s.releaseReset.hist = [.openReq (s.cfg.clockKHz * 1000)] := by
      rw [State.releaseReset, State.setPhase_hist, State.emit_hist, h.reset hp, List.nil_append]
    exact ⟨nofun, fun _ => hhist, nofun, nofun⟩
  | openFailed hp => exact asked_of_not_waiting (.inr (.inl rfl))
  | openSucceeded hp =>
    exact ⟨nofun, nofun, fun _ => ⟨s.hist, rfl⟩, nofun⟩
  | sendDelayed hp hd =>
    exact ⟨nofun, nofun, nofun, fun _ => ⟨s.hist, rfl⟩⟩
  | constructed | sendFailed | sendDone | delayDone => exact asked_of_not_waiting (.inl rfl)

theorem asked_setInputs {s : State} (h : s.asked) (is : List Input) : (s.setInputs is).asked :=
  ⟨h.reset, h.opening, h.frame, h.delay⟩

theorem asked_of_step {s t : State} (h : s.asked) (hst : step s = .next t) : t.asked := by
  obtain ⟨inp, rest, -, he⟩ := stepEffect_of_step hst
  exact asked_of_stepEffect (asked_setInputs h rest) he

theorem asked_resetOf (c : Config) : (State.resetOf c).asked := ⟨fun _ => rfl, nofun, nofun, nofun⟩

/-- Settles O59: every effect that leads to a waiting phase ends in the request, and `asked` holds at reset. -/
theorem outstandingRequestMatchesTheBuffer : Obligations.OutstandingRequestMatchesTheBuffer :=
  ⟨fun _ _ => asked_of_step, fun c offered _ h =>
    reaches_induction (fun _ _ => asked_of_step) (asked_setInputs (asked_resetOf c) offered) h⟩

/-! ## The configuration -/

theorem cfg_of_idleEffect {s t : State} {i : Instr} (he : IdleEffect s i t) : t.cfg = s.cfg := by
  cases he <;> rfl

theorem cfg_of_stepEffect {s t : State} {inp : Input} (he : StepEffect s inp t) : t.cfg = s.cfg := by
  cases he with
  | command _ _ he => exact cfg_of_idleEffect he
  | _ => rfl

theorem cfg_of_step {s t : State} (h : step s = .next t) : t.cfg = s.cfg := by
  obtain ⟨inp, rest, -, he⟩ := stepEffect_of_step h
  exact (cfg_of_stepEffect he).trans (State.setInputs_cfg s rest)

/-- Settles O56: no effect writes the configuration. -/
theorem configurationIsFixed : Obligations.ConfigurationIsFixed := fun s _ h =>
  reaches_induction (P := fun u => u.cfg = s.cfg) (fun _ _ hu hst => (cfg_of_step hst).trans hu) rfl h

end Sys2Proof.Proofs
end

section
/-! PROOFS. The bus parameters (42_transport.md R136): every operation of the state, and so every step, keeps that two blocks differ
in nothing else. -/

namespace Sys2Proof.Proofs

open Sys2Proof.Machine

theorem hideClock_openReq (hz hz' : Nat) : (Event.openReq hz).hideClock = (Event.openReq hz').hideClock := rfl

section
variable {s s' : State} (h : SameButBus s s')
include h

/-! ## Values computed from the configuration -/

theorem same_channels : channels s.cfg = channels s'.cfg := by simp only [channels, h.mode]

theorem same_txLen : txLen s.cfg = txLen s'.cfg := by simp only [txLen, h.headerLen, h.numLeds, same_channels h]

theorem same_slotAddr (i k j : Nat) : slotAddr s.cfg i k j = slotAddr s'.cfg i k j := by
  simp only [slotAddr, h.headerLen, same_channels h]

theorem same_enc (v : Byte) : enc s.cfg v = enc s'.cfg v := by simp only [enc, bitByte, h.oneByte, h.zeroByte]

theorem same_modeClash (col : Color) : modeClash s.cfg col = modeClash s'.cfg col := by simp only [modeClash, h.mode]

theorem same_indexInRange (idx : Index) : indexInRange s.cfg idx = indexInRange s'.cfg idx := by
  simp only [indexInRange, h.numLeds]

theorem same_frameWrites : frameWrites s = frameWrites s' := by
  simp only [frameWrites, slotWrites, led, h.leds, h.numLeds, same_channels h, same_slotAddr h, same_enc h]

theorem same_txFrame : txFrame s = txFrame s' := by simp only [txFrame, same_txLen h, h.txbuf]

/-! ## Operations -/

theorem same_emit {e e' : Event} (he : e.hideClock = e'.hideClock) : SameButBus (s.emit e) (s'.emit e') where
  __ := h
  hist := by simp [h.hist, he]

theorem same_respond (code : Byte) (data : Word) : SameButBus (s.respond code data) (s'.respond code data) :=
  same_emit h rfl

theorem same_setPhase (p : Phase) : SameButBus (s.setPhase p) (s'.setPhase p) where
  __ := h
  phase := rfl

theorem same_setLeds {l l' : List Color} (hl : l = l') : SameButBus (s.setLeds l) (s'.setLeds l') where
  __ := h
  leds := hl

theorem same_setLed (i : Nat) (col : Color) : SameButBus (s.setLed i col) (s'.setLed i col) :=
  same_setLeds h (by rw [h.leds])

theorem same_fillLeds (col : Color) : SameButBus (s.fillLeds col) (s'.fillLeds col) :=
  same_setLeds h (by rw [h.numLeds])

theorem same_frame : SameButBus s.frame s'.frame where
  __ := h
  txbuf := by rw [State.frame_txbuf, State.frame_txbuf, h.txbuf, same_frameWrites h]

theorem same_emitTxReq : SameButBus s.emitTxReq s'.emitTxReq := same_emit h (by rw [same_txFrame h])

theorem same_setPendDelay (d : Micros) : SameButBus (s.setPendDelay d) (s'.setPendDelay d) where
  __ := h
  pendDelay := rfl

theorem same_setInputs (is : List Input) : SameButBus (s.setInputs is) (s'.setInputs is) where
  __ := h
  inputs := rfl

theorem same_setFault (b : Bool) : SameButBus (s.setFault b) (s'.setFault b) where
  __ := h
  fault := rfl

theorem same_raiseNotOpen : SameButBus s.raiseNotOpen s'.raiseNotOpen := same_respond (same_setFault h true) _ _

theorem same_finish (code : Byte) : SameButBus (s.finish code) (s'.finish code) := same_respond (same_setPhase h .idle) code _

theorem same_assertReset : SameButBus s.assertReset s'.assertReset where
  __ := h
  phase := rfl
  leds := by simp [State.assertReset, h.numLeds]
  txbuf := rfl
  fault := rfl
  pendDelay := rfl
  hist := rfl

/-- The clock goes out in `OpenReq`, where it is hidden. -/
theorem same_releaseReset : SameButBus s.releaseReset s'.releaseReset :=
  same_setPhase (same_emit h (hideClock_openReq _ _)) .opening

theorem same_opened (ok : Bool) : SameButBus (s.opened ok) (s'.opened ok) := by
  cases ok with
  | false => exact same_respond (same_setPhase h .unopened) codeOpenError 0#64
  | true => exact same_setPhase (same_emitTxReq (same_frame (same_fillLeds h 0#32))) .initSend

theorem same_updateSent (ok : Bool) : SameButBus (s.updateSent ok) (s'.updateSent ok) := by
  unfold State.updateSent
  rw [← h.pendDelay]
  split_ifs
  · exact same_setPhase (same_emit h rfl) .delaying
  · exact same_finish h codeOk
  · exact same_finish h codeTransportError

/-! ## Commands, inputs, steps -/

/-- An accepted command makes alike steps if its effects are alike. -/
theorem same_whenAccepted {f : State → State} {t : State} (hst : whenAccepted s f = .next t)
    (hf : SameButBus (f s) (f s')) : ∃ t', whenAccepted s' f = .next t' ∧ SameButBus t t' := by
  obtain ⟨hp, rfl⟩ | ⟨hp, rfl⟩ := whenAccepted_next hst
  · exact ⟨_, whenAccepted_idle (h.phase ▸ hp) f, hf⟩
  · exact ⟨_, whenAccepted_notOpen (h.phase ▸ hp) f, same_raiseNotOpen h⟩

theorem same_exec {i : Instr} {t : State} (hst : exec i s = .next t) : ∃ t', exec i s' = .next t' ∧ SameButBus t t' := by
  cases i with
  | encode v =>
    change execEncode v s = .next t at hst
    refine same_whenAccepted h hst ?_
    rw [same_enc h]
    exact same_respond h _ _
  | setLed idx col =>
    change execSetLed idx col s = .next t at hst
    refine same_whenAccepted h hst ?_
    rw [same_modeClash h, same_indexInRange h]
    split_ifs
    · exact same_respond h _ _
    · exact same_respond (same_setLed h _ _) _ _
    · exact same_respond h _ _
  | fill col =>
    change execFill col s = .next t at hst
    refine same_whenAccepted h hst ?_
    rw [same_modeClash h]
    split_ifs
    · exact same_respond h _ _
    · exact same_respond (same_fillLeds h _) _ _
  | build =>
    change execBuild s = .next t at hst
    exact same_whenAccepted h hst (same_respond (same_frame h) _ _)
  | update dly =>
    change execUpdate dly s = .next t at hst
    exact same_whenAccepted h hst (same_setPhase (same_emitTxReq (same_setPendDelay (same_frame h) dly)) _)
  | close =>
    change execClose s = .next t at hst
    exact same_whenAccepted h hst (same_respond (same_setPhase (same_emit h rfl) _) _ _)

theorem same_runCommand {w : Word} {t : State} (hst : runCommand w s = .next t) :
    ∃ t', runCommand w s' = .next t' ∧ SameButBus t t' := by
  cases hd : decode w with
  | ok i =>
    rw [runCommand_of_ok hd] at hst ⊢
    exact same_exec h hst
  | error e =>
    rw [runCommand_of_error hd] at hst ⊢
    exact same_whenAccepted h hst (same_respond h _ _)

theorem same_runInput {inp : Input} {t : State} (hst : runInput inp s = .next t) :
    ∃ t', runInput inp s' = .next t' ∧ SameButBus t t' := by
  cases inp with
  | command w => exact same_runCommand h hst
  | resetAssert =>
    cases hst
    exact ⟨_, rfl, same_assertReset h⟩
  | resetRelease =>
    cases hst
    exact ⟨_, rfl, same_releaseReset h⟩
  | openAck ok =>
    cases hst
    exact ⟨_, rfl, same_opened h ok⟩
  | txDone ok =>
    cases hst
    refine ⟨_, rfl, ?_⟩
    rw [← h.phase]
    split_ifs
    · exact same_finish h (sendCode ok)
    · exact same_updateSent h ok
  | delayDone =>
    cases hst
    exact ⟨_, rfl, same_finish h codeOk⟩

theorem same_step {t : State} (hst : step s = .next t) : ∃ t', step s' = .next t' ∧ SameButBus t t' := by
  obtain ⟨inp, rest, htake, hrun⟩ := step_next hst
  rw [step_of_take (h.phase ▸ h.inputs ▸ htake)]
  exact same_runInput (same_setInputs h rest) hrun

end

/-- Settles O60: `same_step`. -/
theorem busParametersDoNotMatter : Obligations.BusParametersDoNotMatter := fun _ _ _ h hst => same_step h hst

end Sys2Proof.Proofs
end

section
/-! PROOFS. The commands in `IDLE`, and what each leaves unchanged (41_frame.md, 42_transport.md, 43_led_state.md). -/

namespace Sys2Proof.Proofs

open Sys2Proof.Machine

/-! ## BUILD, UPDATE, CLOSE -/

/-- Settles O21: the frame function and one response. -/
theorem buildRunsTheFrameFunction : Obligations.BuildRunsTheFrameFunction := fun _ h => exec_build_idle h

/-- Settles O23: the frame is read from the buffer just built. -/
theorem updateBuildsAndHandsOver : Obligations.UpdateBuildsAndHandsOver := fun _ dly h => exec_update_idle h dly

/-- Settles O30: two events, of which the response is the last. -/
theorem closeReleasesTheBus : Obligations.CloseReleasesTheBus := by
  intro s h
  have hhist : s.hist ++ [.release, .resp codeOk 0#64] = (((s.emit .release).setPhase .closed).respond codeOk 0#64).hist := by
    simp
  rw [exec_close_idle h]
  exact hhist ▸ rfl

/-! ## SET_LED and FILL -/

section
variable {s : State} (h : s.phase = .idle) {col : Color}
include h

theorem exec_setLed_of_modeClash (hm : modeClash s.cfg col = true) (idx : Index) :
    exec (.setLed idx col) s = .next (s.respond codeModeError 0#64) := by
  rw [exec_setLed_idle h, if_pos hm]

theorem exec_setLed_of_index_ge (hm : ¬modeClash s.cfg col = true) {idx : Index} (hi : s.cfg.numLeds ≤ idx.toNat) :
    exec (.setLed idx col) s = .next (s.respond codeIndexError 0#64) := by
  rw [exec_setLed_idle h, if_neg hm, indexInRange_eq_decide, if_neg (by simpa using hi)]

theorem exec_setLed_of_index_lt (hm : ¬modeClash s.cfg col = true) {idx : Index} (hi : idx.toNat < s.cfg.numLeds) :
    exec (.setLed idx col) s = .next ((s.setLed idx.toNat col).respond codeOk 0#64) := by
  rw [exec_setLed_idle h, if_neg hm, indexInRange_eq_decide, if_pos (decide_eq_true hi)]

theorem exec_fill_of_modeClash (hm : modeClash s.cfg col = true) :
    exec (.fill col) s = .next (s.respond codeModeError 0#64) := by
  rw [exec_fill_idle h, if_pos hm]

theorem exec_fill_of_not_modeClash (hm : ¬modeClash s.cfg col = true) :
    exec (.fill col) s = .next ((s.fillLeds col).respond codeOk 0#64) := by
  rw [exec_fill_idle h, if_neg hm]

end

/-- Settles O31: the checks in their order. -/
theorem setLedInIdle : Obligations.SetLedInIdle := by
  intro s idx col h
  rw [← modeClash_iff]
  exact ⟨fun hm => exec_setLed_of_modeClash h hm idx, fun hm hi => exec_setLed_of_index_ge h hm hi,
    fun hm hi => exec_setLed_of_index_lt h hm hi⟩

/-- Settles O33: no configuration has more than `2^24 - 1` LEDs, so the index check fails if the mode check does not. -/
theorem largestIndexAlwaysFails : Obligations.LargestIndexAlwaysFails := by
  intro s col h
  by_cases hm : modeClash s.cfg col = true
  · exact .inr (exec_setLed_of_modeClash h hm _)
  · obtain ⟨-, hmax, -, -⟩ := s.cfg.ok_iff
    exact .inl (exec_setLed_of_index_ge h hm hmax)

/-- Settles O34: the store is built anew with `NUM_LEDS` entries. -/
theorem fillInIdle : Obligations.FillInIdle := by
  intro s col h
  rw [← modeClash_iff]
  refine ⟨fun hm => exec_fill_of_modeClash h hm, fun hm => ⟨_, exec_fill_of_not_modeClash h hm, List.length_replicate, ?_⟩⟩
  exact fun i hi => List.getElem?_replicate_of_lt hi

/-- Settles O35: the second command sets one entry of the store that the first one filled. -/
theorem filledEntriesAreSeparate : Obligations.FilledEntriesAreSeparate := by
  intro s t u idx col col' hp hidx hmode hst htu i hi
  have hm : ¬modeClash s.cfg col = true := fun hc => hmode (((modeClash_iff _ _).mp hc).imp_right .inl)
  have hm' : ¬modeClash s.cfg col' = true := fun hc => hmode (((modeClash_iff _ _).mp hc).imp_right .inr)
  rw [exec_fill_of_not_modeClash hp hm] at hst
  cases hst
  rw [exec_setLed_of_index_lt (s := (s.fillLeds col).respond codeOk 0#64) hp hm' hidx] at htu
  cases htu
  split_ifs with hii
  · subst hii
    exact led_of_leds_set_same rfl (by simpa using hi)
  · refine (led_of_leds_set_other (s := s.fillLeds col) rfl hii).trans ?_
    simp [led, hi]

/-! ## What the commands leave unchanged -/

/-- Settles O36: every answer of the two is a response without data, by a block with at most another LED store. -/
theorem ledWritesAreStateOnly : Obligations.LedWritesAreStateOnly := by
  intro s t i hi hst
  obtain ⟨hp, he⟩ | ⟨hn, rfl⟩ := exec_next hst
  · cases he with
    | setLedMode | setLedIndex | setLed | fillMode | fill => exact ⟨rfl, rfl, rfl, rfl, fun _ => rfl, fun _ => rfl, _, rfl⟩
    | encode | build | update | close => simp at hi
  · refine ⟨rfl, rfl, rfl, rfl, fun _ => rfl, fun hp => ?_, _, rfl⟩
    simp [hp] at hn

/-- Settles O37: none of the four effects sets the buffer. -/
theorem commandsThatStoreNoByte : Obligations.CommandsThatStoreNoByte := by
  intro s t i hbuild hupdate hst
  obtain ⟨hp, he⟩ | ⟨hn, rfl⟩ := exec_next hst
  · cases he with
    | encode | setLedMode | setLedIndex | fillMode =>
      exact ⟨fun _ => rfl, rfl, rfl, rfl, fun _ _ => rfl, fun _ => rfl, fun _ => rfl⟩
    | @setLed idx col => exact ⟨fun _ => rfl, rfl, rfl, rfl, fun hne => absurd rfl (hne idx col), fun _ => rfl, fun _ => rfl⟩
    | @fill col => exact ⟨fun _ => rfl, rfl, rfl, rfl, fun _ hne => absurd rfl (hne col), fun _ => rfl, fun _ => rfl⟩
    | close => exact ⟨fun _ => rfl, rfl, rfl, rfl, fun _ _ => rfl, fun hne => absurd rfl hne, fun _ => rfl⟩
    | build => exact absurd rfl hbuild
    | update dly => exact absurd rfl (hupdate dly)
  · refine ⟨fun _ => rfl, rfl, rfl, rfl, fun _ _ => rfl, fun _ => rfl, fun hp => ?_⟩
    simp [hp] at hn

/-- Settles O38: both effects store by the frame function only. -/
theorem commandsThatStoreBytes : Obligations.CommandsThatStoreBytes := by
  intro s t i hi hst
  obtain ⟨hp, he⟩ | ⟨hn, rfl⟩ := exec_next hst
  · cases he with
    | build =>
      exact ⟨fun _ => State.read_frame_other s, rfl, rfl, rfl, fun _ => ⟨rfl, rfl⟩, fun _ => rfl, fun hne => absurd hp hne⟩
    | update dly => exact ⟨fun _ => State.read_frame_other s, rfl, rfl, rfl, nofun, fun _ => rfl, fun hne => absurd hp hne⟩
    | encode | setLedMode | setLedIndex | setLed | fillMode | fill | close => simp at hi
  · refine ⟨fun _ _ => rfl, rfl, rfl, rfl, fun _ => ⟨rfl, rfl⟩, fun hp => ?_, fun _ => rfl⟩
    simp [hp] at hn

end Sys2Proof.Proofs
end

section
/-! PROOFS. The steps that take a word (30_encoding.md section 1, 60_exceptions.md section 1). -/

namespace Sys2Proof.Proofs

open Sys2Proof.Machine

/-- Settles O4: the words of R85, each decoded by computation. -/
theorem wordsOfTheSpecDecode : Obligations.WordsOfTheSpecDecode := by
  unfold Obligations.WordsOfTheSpecDecode
  decide

theorem decode_of_decodeTableWord {nbits w : Nat} {i : Instr} (h : decodeTableWord nbits w = some i) :
    decode (tableWord nbits w) = .ok i := by
  unfold decodeTableWord at h
  split at h
  · cases hd : decode (tableWord nbits w) with
    | ok j => simpa [hd, Except.toOption] using h
    | error e => simp [hd, Except.toOption] at h
  · cases h

/-- A word placed for the next step is the input that step takes. -/
theorem step_withFetchWord (s : State) (nbits w : Nat) :
    step (s.withFetchWord nbits w) = runCommand (tableWord nbits w) (s.setPhase .idle) :=
  step_of_take (s := s.withFetchWord nbits w) (takeInput_head rfl)

/-- Settles O10: the taken word is run by `runCommand`, which is a case split on its decoding. -/
theorem stepRunsTheDecodedCommand : Obligations.StepRunsTheDecodedCommand := by
  intro s w rest htake
  refine ⟨fun i hd => (step_of_take htake).trans (runCommand_of_ok hd _),
    fun e hd => (step_of_take htake).trans (runCommand_of_error hd _), fun t nbits x i hd => ?_⟩
  rw [step_withFetchWord, runCommand_of_ok (decode_of_decodeTableWord hd)]

/-- A block that is not open takes words, which all raise `NOT_OPEN`, and the assertion of reset, and nothing else. -/
theorem stepEffect_notOpen {s t : State} {inp : Input} (h : s.phase = .unopened ∨ s.phase = .closed)
    (he : StepEffect s inp t) :
    ((∃ w, inp = .command w) ∧ t = s.raiseNotOpen) ∨ (inp = .resetAssert ∧ t = s.assertReset) := by
  cases he
  case notOpen w hp => exact .inl ⟨⟨w, rfl⟩, rfl⟩
  case resetAssert => exact .inr ⟨rfl, rfl⟩
  all_goals rcases h with h | h <;> simp_all

/-- Settles O39: `stepEffect_notOpen` leaves only the fault for a word. -/
theorem notOpenFault : Obligations.NotOpenFault := by
  intro s w rest hp htake
  obtain ⟨t, ht, he⟩ := exists_step_of_take htake
  obtain ⟨-, rfl⟩ | ⟨hinp, -⟩ := stepEffect_notOpen (s := s.setInputs rest) hp he
  · exact ht
  · cases hinp

theorem execIllegal_idle {s : State} (h : s.phase = .idle) : execIllegal s = .next (s.respond codeIllegal 0#64) := by
  simp only [execIllegal, whenAccepted_idle h]

/-- Settles O40: an Illegal word is run as `execIllegal`. -/
theorem illegalWordAnswered : Obligations.IllegalWordAnswered := by
  intro s w rest e hp htake hd
  rw [step_of_take htake]
  exact (runCommand_of_error hd _).trans (execIllegal_idle hp)

end Sys2Proof.Proofs
end

section
/-! PROOFS. The answers of the transport and the timer to an UPDATE (42_transport.md section 1). -/

namespace Sys2Proof.Proofs

open Sys2Proof.Machine

/-- Settles O24: in `SENDING` the pending delay says which of the two ways it goes. -/
theorem successfulSend : Obligations.SuccessfulSend := by
  intro s rest hp htake
  obtain ⟨t, ht, he⟩ := exists_step_of_take htake
  cases he with
  | constructed _ hp' => exact absurd (hp.symm.trans hp') (by decide)
  | sendDelayed _ hd => exact ⟨fun _ => ht, fun h0 => absurd h0 hd⟩
  | sendDone _ hd => exact ⟨fun hne => absurd hd hne, fun _ => ht⟩

/-- Settles O25: of the three ways to take `tx_done(false)`, only the failed send is one of `SENDING`. -/
theorem failedSend : Obligations.FailedSend := by
  intro s rest hp htake
  obtain ⟨t, ht, he⟩ := exists_step_of_take htake
  cases he with
  | constructed _ hp' => exact absurd (hp.symm.trans hp') (by decide)
  | sendFailed _ => exact ht

/-- Settles O26: `delay_done` has one effect, in `DELAYING`. -/
theorem endOfDelay : Obligations.EndOfDelay := by
  intro s rest htake
  obtain ⟨t, ht, he⟩ := exists_step_of_take htake
  cases he with
  | delayDone hp => exact ⟨hp, ht⟩

/-- A run of some steps begins with the first of them. -/
theorem run_succ_of_step {s t : State} (h : step s = .next t) (k : Nat) :
    Sys2Proof.core.run (k + 1) s = Sys2Proof.core.run k t := by
  have hcore : Sys2Proof.core.step s = .next t := h
  simp only [Host.Core.run, hcore]

theorem run_zero (s : State) : Sys2Proof.core.run 0 s = .next s := rfl

/-- The word of an UPDATE at the head of what is offered to a block in `IDLE`: the accept step. -/
theorem step_update {s : State} {w : Word} {dly : Micros} {is : List Input} (hp : s.phase = .idle)
    (hd : decode w = .ok (.update dly)) (hin : s.inputs = .command w :: is) :
    step s = .next { s with
      inputs := is, txbuf := s.frame.txbuf, pendDelay := dly, phase := .sending,
      hist := s.hist ++ [.txReq (txFrame s.frame)] } := by
  have htake : takeInput s.phase s.inputs = some (.command w, is) := by rw [hin, hp]; exact takeInput_head rfl
  rw [step_of_take htake]
  exact (runCommand_of_ok hd _).trans (exec_update_idle (s := s.setInputs is) hp dly)

/-- Settles O27: the accept step, then the answers by `SuccessfulSend`, `FailedSend` and `EndOfDelay`. -/
theorem updateEndsInOneResponse : Obligations.UpdateEndsInOneResponse := by
  intro s w dly ok rest hp hd
  refine ⟨fun hin hcase => ?_, fun hin hne => ?_⟩
  · rw [run_succ_of_step (step_update hp hd hin)]
    cases ok with
    | false =>
      rw [run_succ_of_step (failedSend _ rest rfl (takeInput_head rfl)), run_zero]
      exact ⟨_, rfl, rfl, rfl, rfl, by simp⟩
    | true =>
      have hzero : dly = 0#32 := by simpa using hcase
      rw [run_succ_of_step ((successfulSend _ rest rfl (takeInput_head rfl)).2 hzero), run_zero]
      exact ⟨_, rfl, rfl, rfl, rfl, by simp⟩
  · rw [run_succ_of_step (step_update hp hd hin),
      run_succ_of_step ((successfulSend _ (.delayDone :: rest) rfl (takeInput_head rfl)).1 hne),
      run_succ_of_step (endOfDelay _ rest (takeInput_head rfl)).2, run_zero]
    exact ⟨_, rfl, rfl, rfl, rfl, by simp⟩

end Sys2Proof.Proofs
end

section
/-! PROOFS. Reset and the construction sequence (70_reset_and_hazards.md section 1). -/

namespace Sys2Proof.Proofs

open Sys2Proof.Machine

/-- Settles O45: each field as `State.resetOf` gives it. -/
theorem resetStateOfTheSpec : Obligations.ResetStateOfTheSpec := by
  refine fun c => ⟨rfl, rfl, List.length_replicate, fun i hi => ?_, fun _ => rfl, rfl, rfl, rfl, rfl, rfl⟩
  simp [led, hi]

/-- Settles O46: the assertion of reset has one effect, whatever the phase. -/
theorem resetAsserted : Obligations.ResetAsserted := by
  intro s rest htake
  obtain ⟨t, ht, he⟩ := exists_step_of_take htake
  cases he with
  | resetAssert => exact ⟨_, ht, rfl, rfl, fun _ => rfl, rfl, rfl, rfl, rfl, rfl⟩

/-- Settles O47: the release of reset has one effect, in `RESET`. -/
theorem resetReleased : Obligations.ResetReleased := by
  intro s rest htake
  obtain ⟨t, ht, he⟩ := exists_step_of_take htake
  cases he with
  | resetRelease hp => exact ⟨hp, ht⟩

/-- Settles O48: a failed open has one effect, in `OPENING`. -/
theorem openFailed : Obligations.OpenFailed := by
  intro s rest htake
  obtain ⟨t, ht, he⟩ := exists_step_of_take htake
  cases he with
  | openFailed hp => exact ⟨hp, ht⟩

/-- Settles O49: the frame function runs on a store of zeros, so it builds the clear frame. -/
theorem openSucceeded : Obligations.OpenSucceeded := by
  intro s rest hinv htake
  obtain ⟨t, ht, he⟩ := exists_step_of_take htake
  cases he with
  | openSucceeded hp =>
    have hoff : ((s.setInputs rest).fillLeds 0#32).Inv := inv_fillLeds (inv_setInputs hinv rest) (not_modeClash_zero _)
    have hframe := txFrame_frame_of_leds_zero hoff fun _ hx => List.eq_of_mem_replicate hx
    have hled : ∀ i, i < s.cfg.numLeds → led ((s.setInputs rest).fillLeds 0#32) i = 0#32 := fun i hi => by simp [led, hi]
    refine ⟨hp, _, ht, rfl, rfl, ?_, fun a hlo hhi => read_frame_of_led_zero hoff.txbuf_wf hled hlo hhi, rfl, rfl, rfl, rfl⟩
    exact congrArg (fun frame => s.hist ++ [.txReq frame]) hframe

/-- Settles O50: of the ways to take `tx_done`, only one is of `INIT_SEND`. -/
theorem endOfConstruction : Obligations.EndOfConstruction := by
  intro s ok rest hp htake
  obtain ⟨t, ht, he⟩ := exists_step_of_take htake
  cases he with
  | constructed ok _ => exact ht
  | sendFailed hp' | sendDelayed hp' | sendDone hp' => exact absurd (hp.symm.trans hp') (by decide)

/-- Settles O51: the three steps by `ResetReleased`, `OpenSucceeded` and `EndOfConstruction`. -/
theorem constructionFromReset : Obligations.ConstructionFromReset := by
  intro c ok rest
  obtain ⟨s, hs⟩ : ∃ s, s = (State.resetOf c).setInputs (.resetRelease :: .openAck true :: .txDone ok :: rest) := ⟨_, rfl⟩
  have hinv : s.Inv := hs ▸ inv_setInputs (inv_resetOf c) _
  obtain ⟨-, hrelease⟩ := resetReleased s (.openAck true :: .txDone ok :: rest) (hs ▸ takeInput_head rfl)
  rw [← hs, run_succ_of_step hrelease]
  have hinv₁ := inv_of_step hinv hrelease
  obtain ⟨-, u, hopen, hphase, hleds, hhist, hsegments, hcfg, hfault, hdelay, hinputs⟩ :=
    openSucceeded _ (.txDone ok :: rest) hinv₁ (takeInput_head rfl)
  have hinv₂ := inv_of_step hinv₁ hopen
  have hdone := endOfConstruction u ok rest hphase (by rw [hphase, hinputs]; exact takeInput_head rfl)
  rw [run_succ_of_step hopen, run_succ_of_step hdone, run_zero]
  subst hs
  refine ⟨_, rfl, rfl, hleds, hfault, hdelay, hcfg, rfl, fun a ha => read_header_of_inv hinv₂ (hcfg ▸ ha), hsegments, ?_⟩
  simp [hhist]

end Sys2Proof.Proofs
end

section
/-! PROOFS. What every step keeps and writes: the phase table, the fault bit, the history (10_state.md). -/

namespace Sys2Proof.Proofs

open Sys2Proof.Machine

/-! ## The phase table -/

theorem phaseAfter_of_stepEffect {s t : State} {inp : Input} (he : StepEffect s inp t) :
    phaseAfter s inp = some t.phase := by
  cases he with
  | notOpen w hp => rcases hp with hp | hp <;> simp [phaseAfter, hp]
  | illegal hp hd => simp [phaseAfter, hp, hd]
  | command hp hd he => cases he <;> simp [phaseAfter, hp, hd]
  | resetAssert => rfl
  | sendDelayed hp hd => simp [phaseAfter, hp, hd]
  | sendDone hp hd => simp [phaseAfter, hp, hd]
  | resetRelease hp | openFailed hp | openSucceeded hp | constructed _ hp | sendFailed hp | delayDone hp =>
    simp [phaseAfter, hp, State.releaseReset]

/-- Nothing in the table speaks of what is offered. -/
theorem phaseAfter_setInputs (s : State) (is : List Input) (inp : Input) :
    phaseAfter (s.setInputs is) inp = phaseAfter s inp := rfl

/-- Where the phase does not take an input, the table has no row for it. -/
theorem phaseAfter_eq_none {s : State} {inp : Input} (h : s.phase.takes inp = false) : phaseAfter s inp = none := by
  cases inp <;> simp_all [Phase.takes, phaseAfter]

/-- Settles O54: the effects lead where the table says. -/
theorem phasesFollowTheTable : Obligations.PhasesFollowTheTable := by
  refine ⟨fun s inp rest htake => ?_, fun s inp => ⟨fun h => ?_, fun h => ?_⟩, fun s t hp hst => ?_⟩
  · obtain ⟨t, ht, he⟩ := exists_step_of_take htake
    exact ⟨t, ht, phaseAfter_setInputs s rest inp ▸ phaseAfter_of_stepEffect he⟩
  · obtain ⟨t, -, he⟩ := runInput_effect h
    simp [phaseAfter_of_stepEffect he]
  · exact Bool.not_eq_false _ ▸ fun hf => h (phaseAfter_eq_none hf)
  · obtain ⟨inp, rest, htake, he⟩ := stepEffect_of_step hst
    obtain ⟨-, rfl⟩ | ⟨rfl, rfl⟩ := stepEffect_notOpen (s := s.setInputs rest) hp he
    · exact .inl rfl
    · exact .inr ⟨rfl, rest, htake⟩

/-! ## The fault bit -/

theorem fault_of_idleEffect {s t : State} {i : Instr} (he : IdleEffect s i t) : t.fault = s.fault := by
  cases he <;> rfl

/-- Only a word on a block that is not open and the assertion of reset write the fault bit. -/
theorem fault_of_stepEffect {s t : State} {inp : Input} (he : StepEffect s inp t) :
    ((s.phase = .unopened ∨ s.phase = .closed) ∧ (∃ w, inp = .command w) ∧ t.fault = true) ∨
      (inp = .resetAssert ∧ t.fault = false) ∨ t.fault = s.fault := by
  cases he with
  | notOpen w hp => exact .inl ⟨hp, ⟨w, rfl⟩, rfl⟩
  | resetAssert => exact .inr (.inl ⟨rfl, rfl⟩)
  | command _ _ he => exact .inr (.inr (fault_of_idleEffect he))
  | _ => exact .inr (.inr rfl)

/-- Settles O55: `fault_of_stepEffect` lists the writers of the bit; `stepEffect_notOpen` says that a word on a block not open is one. -/
theorem faultBitIsSticky : Obligations.FaultBitIsSticky := by
  intro s t inp rest htake hst
  have he := stepEffect_of_take htake hst
  refine ⟨fun hs ht => ?_, fun hs ht => ?_, fun hp hw => ?_⟩
  · obtain ⟨-, -, hset⟩ | ⟨hinp, -⟩ | hkeep := fault_of_stepEffect he
    · simp [ht] at hset
    · exact hinp
    · simp [hs, ht] at hkeep
  · obtain ⟨hp, hw, -⟩ | ⟨-, hclear⟩ | hkeep := fault_of_stepEffect he
    · exact ⟨hp, hw⟩
    · simp [ht] at hclear
    · simp [hs, ht] at hkeep
  · obtain ⟨-, rfl⟩ | ⟨rfl, -⟩ := stepEffect_notOpen (s := s.setInputs rest) hp he
    · rfl
    · simp at hw

/-! ## The events of a step -/

/-- A command appends one event, or two; a frame among them is an UPDATE's. -/
theorem hist_of_idleEffect {s t : State} {i : Instr} (he : IdleEffect s i t) :
    ∃ ev, t.hist = s.hist ++ ev ∧ 1 ≤ ev.length ∧ ev.length ≤ 2 ∧
      ((∀ f, Event.txReq f ∉ ev) ∨ ∃ dly, i = .update dly) := by
  cases he with
  | update dly => exact ⟨[_], rfl, by simp, by simp, .inr ⟨dly, rfl⟩⟩
  | close => exact ⟨[.release, .resp codeOk 0#64], by simp, by simp, by simp, .inl (by simp)⟩
  | encode | setLedMode | setLedIndex | setLed | fillMode | fill | build =>
    exact ⟨[.resp _ _], rfl, by simp, by simp, .inl (by simp)⟩

/-- Every input but the assertion of reset appends one event, or two; a frame among them is an UPDATE's or the construction's. -/
theorem hist_of_stepEffect {s t : State} {inp : Input} (he : StepEffect s inp t) (hne : inp ≠ .resetAssert) :
    ∃ ev, t.hist = s.hist ++ ev ∧ 1 ≤ ev.length ∧ ev.length ≤ 2 ∧
      ((∀ f, Event.txReq f ∉ ev) ∨ (∃ w dly, inp = .command w ∧ decode w = .ok (.update dly) ∧ s.phase = .idle) ∨
        (inp = .openAck true ∧ s.phase = .opening)) := by
  cases he with
  | command hp hd he =>
    obtain ⟨ev, hev, hlo, hhi, hframe⟩ := hist_of_idleEffect he
    refine ⟨ev, hev, hlo, hhi, hframe.imp_right fun ⟨dly, hi⟩ => .inl ⟨_, dly, rfl, hi ▸ hd, hp⟩⟩
  | resetAssert => exact absurd rfl hne
  | resetRelease hp => exact ⟨[.openReq _], rfl, by simp, by simp, .inl (by simp)⟩
  | openSucceeded hp => exact ⟨[_], rfl, by simp, by simp, .inr (.inr ⟨rfl, hp⟩)⟩
  | sendDelayed _ _ => exact ⟨[.delayReq _], rfl, by simp, by simp, .inl (by simp)⟩
  | notOpen | illegal | openFailed | constructed | sendFailed | sendDone | delayDone =>
    exact ⟨[.resp _ _], rfl, by simp, by simp, .inl (by simp)⟩

/-- Settles O57: `hist_of_stepEffect`. -/
theorem historyOnlyGrows : Obligations.HistoryOnlyGrows := by
  intro s t inp rest htake hst hne
  obtain ⟨ev, hev, hlo, hhi, -⟩ := hist_of_stepEffect (stepEffect_of_take htake hst) hne
  exact ⟨ev, hev, hlo, hhi⟩

/-- Settles O29: `hist_of_stepEffect` names the steps with a frame among their events. -/
theorem onlyUpdateAndConstructionSend : Obligations.OnlyUpdateAndConstructionSend := by
  intro s t inp rest htake hst
  have he := stepEffect_of_take htake hst
  by_cases hne : inp = .resetAssert
  · subst hne
    cases he
    exact .inr (.inr (.inr ⟨rfl, rfl⟩))
  · obtain ⟨ev, hev, -, -, hnone | hupdate | hopen⟩ := hist_of_stepEffect he hne
    · exact .inl ⟨ev, hev, hnone⟩
    · exact .inr (.inl hupdate)
    · exact .inr (.inr (.inl hopen))

end Sys2Proof.Proofs
end

section
/-! PROOFS. The answers to a word, and the words that stay with the host (60_exceptions.md sections 2 and 3). -/

namespace Sys2Proof.Proofs

open Sys2Proof.Machine

/-! ## Priority of results -/

/-- The codes a decoded command is answered with in `IDLE` are those of the ordered table (R173). -/
theorem respCodes_of_idleEffect {s t : State} {w : Word} {i : Instr} (hp : s.phase = .idle) (hd : decode w = .ok i)
    (he : IdleEffect s i t) : ∃ ev, t.hist = s.hist ++ ev ∧ respCodes ev = acceptCodes s w := by
  cases he with
  | setLedMode hm =>
    rw [modeClash_iff] at hm
    exact ⟨_, rfl, by simp [acceptCodes, respCodes, hp, hd, hm, codeModeError]⟩
  | setLedIndex hm hi =>
    rw [modeClash_iff] at hm
    exact ⟨_, rfl, by simp [acceptCodes, respCodes, hp, hd, hm, hi, codeIndexError]⟩
  | setLed hm hi =>
    rw [modeClash_iff] at hm
    exact ⟨_, rfl, by simp [acceptCodes, respCodes, hp, hd, hm, hi, codeOk]⟩
  | fillMode hm =>
    rw [modeClash_iff] at hm
    exact ⟨_, rfl, by simp [acceptCodes, respCodes, hp, hd, hm, codeModeError]⟩
  | fill hm =>
    rw [modeClash_iff] at hm
    exact ⟨_, rfl, by simp [acceptCodes, respCodes, hp, hd, hm, codeOk]⟩
  | encode | build | update => exact ⟨_, rfl, by simp [acceptCodes, respCodes, hp, hd, codeOk]⟩
  | close => exact ⟨[.release, .resp codeOk 0#64], by simp, by simp [acceptCodes, respCodes, hp, hd, codeOk]⟩

/-- Settles O41: the ordered table read phase by phase and command by command. -/
theorem firstResultThatApplies : Obligations.FirstResultThatApplies := by
  intro s w rest htake
  obtain ⟨t, ht, he⟩ := exists_step_of_take htake
  suffices h : ∃ ev, t.hist = s.hist ++ ev ∧ respCodes ev = acceptCodes s w by
    obtain ⟨ev, hev⟩ := h
    exact ⟨t, ev, ht, hev⟩
  cases he with
  | notOpen _ hp => exact ⟨_, rfl, (if_pos hp).symm⟩
  | illegal hp hd => exact ⟨_, rfl, by rw [State.setInputs_phase] at hp; simp [acceptCodes, respCodes, hp, hd, codeIllegal]⟩
  | command hp hd he => exact respCodes_of_idleEffect (s := s.setInputs rest) hp hd he

/-! ## Errors -/

/-- A history ends in one response only. -/
theorem resp_of_append_eq {h : List Event} {code code' : Byte} {data data' : Word}
    (he : h ++ [.resp code data] = h ++ [.resp code' data']) : code = code' ∧ data = data' := by
  simpa using he

/-- A command answered with an error in `IDLE` changes nothing but the history, and its code is not that of the fault. -/
theorem idleEffect_error {s t : State} {i : Instr} {code : Byte} (he : IdleEffect s i t)
    (hhist : t.hist = s.hist ++ [.resp code 0#64]) (hne : code ≠ codeOk) :
    t = s.respond code 0#64 ∧ code ≠ codeNotOpen := by
  cases he with
  | setLedMode | setLedIndex | fillMode =>
    obtain ⟨rfl, -⟩ := resp_of_append_eq hhist
    exact ⟨rfl, by decide⟩
  | encode | setLed | fill | build => exact absurd (resp_of_append_eq hhist).1.symm hne
  | update => simp at hhist
  | close => simp at hhist

/-- Settles O42: the fault, an Illegal word, or `idleEffect_error`. -/
theorem errorsArePrecise : Obligations.ErrorsArePrecise := by
  intro s t w rest code htake hst hhist hne
  have he := stepEffect_of_take htake hst
  cases he with
  | notOpen _ _ =>
    obtain ⟨rfl, -⟩ := resp_of_append_eq hhist
    rfl
  | illegal _ _ =>
    obtain ⟨rfl, -⟩ := resp_of_append_eq hhist
    rfl
  | command _ _ he =>
    obtain ⟨rfl, hcode⟩ := idleEffect_error he hhist hne
    have hfault : (if code = 0x05#8 then true else s.fault) = s.fault := if_neg hcode
    rw [hfault]
    rfl

/-! ## What stays offered -/

theorem inputs_of_idleEffect {s t : State} {i : Instr} (he : IdleEffect s i t) : t.inputs = s.inputs := by
  cases he <;> rfl

theorem inputs_of_stepEffect {s t : State} {inp : Input} (he : StepEffect s inp t) : t.inputs = s.inputs := by
  cases he with
  | command _ _ he => exact inputs_of_idleEffect he
  | _ => rfl

/-- A step takes the first awaited input out of what is offered. -/
theorem inputs_of_step {s t : State} (h : step s = .next t) :
    ∃ pre inp post, s.inputs = pre ++ inp :: post ∧ t.inputs = pre ++ post ∧ s.phase.takes inp = true ∧
      ∀ x ∈ pre, s.phase.takes x = false := by
  obtain ⟨inp, rest, htake, he⟩ := stepEffect_of_step h
  obtain ⟨htakes, pre, post, hin, hrest, hpre⟩ := takeInput_some htake
  exact ⟨pre, inp, post, hin, (inputs_of_stepEffect he).trans hrest, htakes, hpre⟩

theorem step_stuck_iff (s : State) : step s = .fault (.stuck s.phase) ↔ takeInput s.phase s.inputs = none := by
  cases htake : takeInput s.phase s.inputs with
  | none => simp [step, htake]
  | some p =>
    obtain ⟨t, ht, -⟩ := exists_step_of_take (inp := p.1) (rest := p.2) htake
    simp [ht]

/-- Settles O44: `inputs_of_step`, and the step is stuck where nothing is taken. -/
theorem stepTakesTheFirstAwaitedInput : Obligations.StepTakesTheFirstAwaitedInput :=
  fun s => ⟨fun _ => inputs_of_step, by rw [step_stuck_iff, takeInput_none]⟩

/-- Settles O43: the input taken in such a phase is no word. -/
theorem wordsAreHeldWhileBusy : Obligations.WordsAreHeldWhileBusy := by
  intro s hi hu hc
  refine ⟨fun i => exec_held hi hu hc i, fun t hst => ?_⟩
  obtain ⟨pre, inp, post, hin, hout, htakes, -⟩ := inputs_of_step hst
  rw [hin, hout, List.filter_append, List.filter_append, List.filter_cons_of_neg]
  cases inp with
  | command w => simp [Phase.takes, hi, hu, hc] at htakes
  | _ => simp

end Sys2Proof.Proofs
end
